-- ==== Sys2Proof/Word.lean ====
section
/-! DEFINITION. The word types of BBCORE: 16-bit counter and ROM words, 8-bit port bytes and step words. -/

namespace Sys2Proof

/-- A 16-bit word: `TC`, `SNAP` (10_state.md R14, R15) and every ROM word (20_memory.md R34). -/
abbrev Word := BitVec 16

/-- An 8-bit port value (10_state.md R25). -/
abbrev Byte := BitVec 8

/-- An 8-bit step word (30_encoding.md R49). -/
abbrev StepWord := BitVec 8

/-- A 6-bit ROM word address (20_memory.md R34). -/
abbrev RomAddr := BitVec 6

end Sys2Proof
end

