-- ==== Sys2Proof/Config.lean ====
section
/-! DEFINITION. The configuration record `Cfg` (00_scope.md R4) and the free values of the model. -/

namespace Sys2Proof

/-- The configuration record (00_scope.md R4). Nothing in it changes while the block runs.
`N` is not a field of its own: it is the number of entries of `selftest` (`Cfg.n`). -/
structure Cfg where
  /-- `CW`: the width of `TC` and `SNAP` in bits. -/
  cw       : Nat
  /-- `W`: the wrap modulus of `TC`. -/
  w        : Nat
  /-- `RATE`: counter units per second. -/
  rate     : Nat
  /-- `FAST_MULT`: the increment while the fast-forward flag is set. -/
  fastMult : Nat
  /-- `DIV`: counter units per virtual hour. -/
  div      : Nat
  /-- `SCHED[0..15]`: the schedule table. -/
  sched    : Vector Word 16
  /-- `SELFTEST[0..N-1]`: the self-test chase table. -/
  selftest : List Word
  /-- `KNUCKLE[0..1]`: the strobe patterns, index 0 for even seconds, 1 for odd. -/
  knuckle  : Vector Word 2
  /-- `ALLON`: the all-lights-on constant. -/
  allon    : Word
deriving DecidableEq, Repr

/-- `N`: "number of entries of the self-test table" (00_scope.md R4). -/
def Cfg.n (c : Cfg) : Nat := c.selftest.length

/-- The free values of the model: the `k`-th port byte drawn by `RESET`, which leaves `PA` and `PB` "any value"
(10_state.md R25, 93_implementation_defined.md V1). It has no body, so no claim can depend on what it is.
Assumption log 5. -/
opaque Config.freePortByte : Nat → Byte

end Sys2Proof
end

