-- ==== Sys2Proof/Syntax.lean ====
section
/-! DEFINITION. The thirteen operations of BBCORE as one inductive type, with the agents, phases, pins and ports they name. -/

namespace Sys2Proof

/-- The four agents that take steps (00_scope.md R8). -/
inductive Agent where
  | main | tickUnit | timer | host
deriving DecidableEq, Repr

/-- The ten phases of the main sequencer (30_encoding.md R51). "A model makes `PH` a ten-valued enumeration" (R58): the
codes 10 to 15 cannot be written down. -/
inductive Phase where
  | stHead | stSel | nFf | nTest | nWait | nSel | snapDi | snapRd | snapEi | drive
deriving DecidableEq, Repr

/-- The four sources of the mode multiplexer (30_encoding.md R54). -/
inductive Sel where
  | sched | allon | chase | strobe
deriving DecidableEq, Repr

/-- The two input pins (20_memory.md R33 (c), R42). -/
inductive Pin where
  | ff | test
deriving DecidableEq, Repr

/-- The two output ports (20_memory.md R33 (b), R41). -/
inductive Port where
  | a | b
deriving DecidableEq, Repr

/-- One atomic operation with the pin level it samples: `true` is 1, the button held (00_scope.md R11).
One constructor per row of spec/opcode_table.json (30_encoding.md R53). -/
inductive Instr where
  /-- `ST_HEAD f`: self-test loop head and boot decision (43_mode_sequencer.md R83). -/
  | stHead (f : Bool)
  /-- `ST_SEL t`: choose chase or strobe (R84). -/
  | stSel (t : Bool)
  /-- `N_FF f`: copy FF into the fast-forward flag (R85). -/
  | nFf (f : Bool)
  /-- `N_TEST t`: detect TEST and toggle (42_input_debounce.md R77). -/
  | nTest (t : Bool)
  /-- `N_WAIT t`: busy-wait for the release of TEST (R78). -/
  | nWait (t : Bool)
  /-- `N_SEL`: choose all-on or schedule (43_mode_sequencer.md R86). -/
  | nSel
  /-- `SNAP_DI`: disable the tick interrupt (41_virtual_clock.md R70). -/
  | snapDi
  /-- `SNAP_RD`: copy the counter (R71). -/
  | snapRd
  /-- `SNAP_EI`: restore the tick interrupt (R72). -/
  | snapEi
  /-- `DRIVE`: write both ports from the selected source (44_output_mux.md R91). -/
  | drive
  /-- `TICK_SVC`: the tick unit serves a pending tick (40_tick.md R64). -/
  | tickSvc
  /-- `TICK_REQ`: the timer requests a tick (R63). -/
  | tickReq
  /-- `RESET`: power-on reset (70_reset_and_hazards.md R115). -/
  | reset
deriving DecidableEq, Repr

end Sys2Proof
end

