-- ==== Sys2Proof/WellFormed.lean ====
section
/-! DEFINITION. What is well formed: a configuration (00_scope.md R5) and a step word (30_encoding.md R57).
Every term of `Instr` is well formed: its operands are pin levels, and an operation is defined for both levels
(43_mode_sequencer.md R87), so there is no check on `Instr` to state. -/

namespace Sys2Proof

/-- The check of a configuration: conditions (a) to (f) of 00_scope.md R5, in that order; "a model refuses any
other configuration". -/
def Cfg.admissible (c : Cfg) : Bool :=
  decide (c.cw = 16) &&
  decide (1 ≤ c.w ∧ c.w ≤ 2 ^ c.cw) &&
  decide (1 ≤ c.fastMult ∧ c.fastMult ≤ c.w) &&
  decide (1 ≤ c.div ∧ 1 ≤ c.rate) &&
  decide (c.w = 16 * c.div) &&
  decide (1 ≤ c.n ∧ c.n ≤ 16)

/-- A step word is reserved when its agent field is 0 and its phase field is 10 to 15, "that is `0x28 .. 0x3F`"
(30_encoding.md R57). -/
def StepWord.wellFormed (w : StepWord) : Bool :=
  !(w.extractLsb' 6 2 == 0#2 && decide (10 ≤ (w.extractLsb' 2 4).toNat))

/-- A trace is a list of well-formed step words (30_encoding.md R49, R57). Whether each word is also enabled in the state
it is applied to (R50) is the machine's question, not the trace's form. -/
def Trace.wellFormed (ws : List StepWord) : Bool := ws.all StepWord.wellFormed

end Sys2Proof
end

