-- ==== Sys2Proof/Decode.lean ====
section
/-! DEFINITION. The step word: its fields, the decoder (total on all 256 words, rejecting by name), the encoder, and the
operation map of 30_encoding.md R53 as a table of match and mask. -/

namespace Sys2Proof

/-- Agent codes (30_encoding.md R49, bits 7:6). -/
def Agent.code : Agent → BitVec 2
  | .main => 0b00#2
  | .tickUnit => 0b01#2
  | .timer => 0b10#2
  | .host => 0b11#2

/-- Phase codes (30_encoding.md R51); the register `PH` and the step word's field use the same ones. -/
def Phase.code : Phase → BitVec 4
  | .stHead => 0#4
  | .stSel => 1#4
  | .nFf => 2#4
  | .nTest => 3#4
  | .nWait => 4#4
  | .nSel => 5#4
  | .snapDi => 6#4
  | .snapRd => 7#4
  | .snapEi => 8#4
  | .drive => 9#4

/-- Pin numbers (20_memory.md R33 (c)): they are the bit positions of the levels in a step word (92_eei_decisions.md D6). -/
def Pin.number : Pin → Nat
  | .ff => 0
  | .test => 1

/-- Port numbers (20_memory.md R33 (b)). -/
def Port.number : Port → Nat
  | .a => 0
  | .b => 1

/-- The agent that takes the operation (30_encoding.md R53). -/
def Instr.agent : Instr → Agent
  | .stHead _ | .stSel _ | .nFf _ | .nTest _ | .nWait _ | .nSel | .snapDi | .snapRd | .snapEi | .drive => .main
  | .tickSvc => .tickUnit
  | .tickReq => .timer
  | .reset => .host

/-- The phase a main operation belongs to (30_encoding.md R51); the other agents' operations have none. -/
def Instr.phase : Instr → Option Phase
  | .stHead _ => some .stHead
  | .stSel _ => some .stSel
  | .nFf _ => some .nFf
  | .nTest _ => some .nTest
  | .nWait _ => some .nWait
  | .nSel => some .nSel
  | .snapDi => some .snapDi
  | .snapRd => some .snapRd
  | .snapEi => some .snapEi
  | .drive => some .drive
  | .tickSvc | .tickReq | .reset => none

/-- The pin an operation samples and the level it sees (20_memory.md R42, 30_encoding.md R52). -/
def Instr.sample : Instr → Option (Pin × Bool)
  | .stHead f => some (.ff, f)
  | .stSel t => some (.test, t)
  | .nFf f => some (.ff, f)
  | .nTest t => some (.test, t)
  | .nWait t => some (.test, t)
  | .nSel | .snapDi | .snapRd | .snapEi | .drive | .tickSvc | .tickReq | .reset => none

/-- Mnemonics (30_encoding.md R53). -/
def Instr.mnemonic : Instr → String
  | .stHead _ => "ST_HEAD"
  | .stSel _ => "ST_SEL"
  | .nFf _ => "N_FF"
  | .nTest _ => "N_TEST"
  | .nWait _ => "N_WAIT"
  | .nSel => "N_SEL"
  | .snapDi => "SNAP_DI"
  | .snapRd => "SNAP_RD"
  | .snapEi => "SNAP_EI"
  | .drive => "DRIVE"
  | .tickSvc => "TICK_SVC"
  | .tickReq => "TICK_REQ"
  | .reset => "RESET"

/-- The `agent` field, bits 7:6 (30_encoding.md R49). -/
def StepWord.agentField (w : StepWord) : BitVec 2 := w.extractLsb' 6 2

/-- The `phase` field, bits 5:2. -/
def StepWord.phaseField (w : StepWord) : BitVec 4 := w.extractLsb' 2 4

/-- The `t` field, bit 1: the level of the TEST pin. -/
def StepWord.t (w : StepWord) : Bool := w.getLsbD 1

/-- The `f` field, bit 0: the level of the FF pin. -/
def StepWord.f (w : StepWord) : Bool := w.getLsbD 0

/-- Why a word selects no operation. -/
inductive DecodeError where
  /-- The agent field says main sequencer and the phase field holds a code of 10 to 15 (30_encoding.md R57). -/
  | reservedPhase (code : BitVec 4)
deriving DecidableEq, Repr

/-- The main operation a phase code selects, given the levels of both pins (30_encoding.md R51, R52). -/
def decodeMain (code : BitVec 4) (t f : Bool) : Except DecodeError Instr :=
  match code.toNat with
  | 0 => .ok (.stHead f)
  | 1 => .ok (.stSel t)
  | 2 => .ok (.nFf f)
  | 3 => .ok (.nTest t)
  | 4 => .ok (.nWait t)
  | 5 => .ok .nSel
  | 6 => .ok .snapDi
  | 7 => .ok .snapRd
  | 8 => .ok .snapEi
  | 9 => .ok .drive
  | _ => .error (.reservedPhase code)

/-- The decoder (30_encoding.md R49 to R53, R57): "a decoder returns 'invalid'" for the reserved words, here with the
reserved code. Ignored bits are ignored (R52). -/
def decode (w : StepWord) : Except DecodeError Instr :=
  match w.agentField.toNat with
  | 0 => decodeMain w.phaseField w.t w.f
  | 1 => .ok .tickSvc
  | 2 => .ok .tickReq
  | _ => .ok .reset

/-- Assemble a step word from its fields (30_encoding.md R49). -/
def assemble (agent : BitVec 2) (phase : BitVec 4) (t f : Bool) : StepWord :=
  agent ++ phase ++ BitVec.ofBool t ++ BitVec.ofBool f

/-- The encoder: the canonical word, "every ignored bit 0" (30_encoding.md R52, R53). -/
def encode (i : Instr) : StepWord :=
  assemble i.agent.code ((i.phase.map Phase.code).getD 0#4)
    (i.sample.any fun (pin, level) => pin == .test && level)
    (i.sample.any fun (pin, level) => pin == .ff && level)

/-- The operations of a trace of step words, or the first word's reason for selecting none. -/
def decodeTrace : List StepWord → Except DecodeError (List Instr)
  | [] => .ok []
  | w :: ws =>
    match decode w with
    | .ok i =>
      match decodeTrace ws with
      | .ok is => .ok (i :: is)
      | .error e => .error e
    | .error e => .error e

/-- A row of the operation map (30_encoding.md R53): "A word `w` selects the row with `(w and mask) = match`". -/
structure OpRow where
  mnemonic : String
  matchVal : StepWord
  mask     : StepWord
deriving DecidableEq, Repr

/-- The row's test on a word. -/
def OpRow.selects (r : OpRow) (w : StepWord) : Bool := w &&& r.mask == r.matchVal

/-- The operation map as the spec tabulates it (30_encoding.md R53, spec/opcode_table.json). The decoder does not use it; a
claim says the two agree. -/
def opRows : List OpRow :=
  [⟨"ST_HEAD", 0x00, 0xFC⟩, ⟨"ST_SEL", 0x04, 0xFC⟩, ⟨"N_FF", 0x08, 0xFC⟩, ⟨"N_TEST", 0x0C, 0xFC⟩,
   ⟨"N_WAIT", 0x10, 0xFC⟩, ⟨"N_SEL", 0x14, 0xFC⟩, ⟨"SNAP_DI", 0x18, 0xFC⟩, ⟨"SNAP_RD", 0x1C, 0xFC⟩] ++
  [⟨"SNAP_EI", 0x20, 0xFC⟩, ⟨"DRIVE", 0x24, 0xFC⟩, ⟨"TICK_SVC", 0x40, 0xC0⟩, ⟨"TICK_REQ", 0x80, 0xC0⟩,
   ⟨"RESET", 0xC0, 0xC0⟩]

/-- The bits of a word that its operation reads: the complement of the ignored bits (30_encoding.md R52). -/
def significantBits : Instr → StepWord
  | .stHead _ | .nFf _ => 0xFD
  | .stSel _ | .nTest _ | .nWait _ => 0xFE
  | .nSel | .snapDi | .snapRd | .snapEi | .drive => 0xFC
  | .tickSvc | .tickReq | .reset => 0xC0

/-- The instruction the decoder reads from the table's word `w` of `nbits` bits. Every row has 8 bits (30_encoding.md R59);
a number that needs more than one step word is no instruction. -/
def decodeTableWord (nbits w : Nat) : Option Instr :=
  if w < 2 ^ min nbits 8 then
    match decode (BitVec.ofNat 8 w) with
    | .ok i => some i
    | .error _ => none
  else none

end Sys2Proof
end

