-- ==== Sys2Proof/Machine/Profiles.lean ====
section
/-! DEFINITION. The configuration profiles the spec names: `P16` and `P57` (00_scope.md R6), with the default ROM contents
of 20_memory.md R36 to R39. The contents are the spec's own decisions (92_eei_decisions.md D9, D21), not the source's. -/

namespace Sys2Proof.Machine

/-- `TESTROM`: `SCHED[h] = {0xFF - 0x11*h, 0x11*h}` (20_memory.md R36). -/
def testRom : Vector Word 16 :=
  #v[(0xFF00 : Word), 0xEE11, 0xDD22, 0xCC33, 0xBB44, 0xAA55, 0x9966, 0x8877] ++
  #v[(0x7788 : Word), 0x6699, 0x55AA, 0x44BB, 0x33CC, 0x22DD, 0x11EE, 0x00FF]

/-- The default self-test table of `n` entries: `SELFTEST[i] = 1 << i` (20_memory.md R37). -/
def walkingOne (n : Nat) : List Word := (List.range n).map fun i => 1#16 <<< i

/-- The default all-on constant: "the bitwise or of all `SELFTEST` entries" (20_memory.md R39). -/
def orOfAll (table : List Word) : Word := table.foldl (· ||| ·) 0#16

/-- The default strobe patterns: `0x5555 and ALLON`, `0xAAAA and ALLON` (20_memory.md R38). -/
def defaultKnuckle (allon : Word) : Vector Word 2 := #v[0x5555#16 &&& allon, 0xAAAA#16 &&& allon]

/-- A configuration with the default ROM contents for `n` self-test entries. -/
def defaultCfg (w rate fastMult div n : Nat) : Cfg where
  cw := 16
  w := w
  rate := rate
  fastMult := fastMult
  div := div
  sched := testRom
  selftest := walkingOne n
  knuckle := defaultKnuckle (orOfAll (walkingOne n))
  allon := orOfAll (walkingOne n)

/-- The reference profile `P16` (00_scope.md R6). -/
def p16 : Cfg := defaultCfg 65536 16 64 4096 10

/-- The second test profile `P57` (00_scope.md R6). -/
def p57 : Cfg := defaultCfg 57600 16 64 3600 10

end Sys2Proof.Machine
end

