-- ==== Sys2Proof/Machine/State.lean ====
section
/-! DEFINITION. The state of BBCORE (10_state.md R13), its reset value (R29), and the ways a step can stop. -/

namespace Sys2Proof.Machine

/-- One port-write event `(a, b)` of the execution's history (20_memory.md R41). -/
abbrev PortWrite := Byte × Byte

/-- The state: the ten registers of 10_state.md R13, the configuration (R30), the port-write history (20_memory.md R41), the
step words still to come, and the model's own count of free values drawn. -/
structure State where
  /-- `TC`, the tick counter (10_state.md R14). -/
  tc     : Word
  /-- `SNAP`, the snapshot register (R15). -/
  snap   : Word
  /-- `FFL`, the fast-forward flag (R17). -/
  ffl    : Bool
  /-- `TM`, the test-mode flag (R18). -/
  tm     : Bool
  /-- `IE`, tick interrupt enable (R20). -/
  ie     : Bool
  /-- `TF`, the tick firing flag (R21). -/
  tf     : Bool
  /-- `SEL`, the mode multiplexer select latch (R22). -/
  sel    : Sel
  /-- `PH`, the phase register (R23). -/
  ph     : Phase
  /-- `PA`, the latch of port A (R25). -/
  pa     : Byte
  /-- `PB`, the latch of port B (R25). -/
  pb     : Byte
  /-- The execution's port-write history, oldest first (20_memory.md R41, 00_scope.md R10). -/
  hist   : List PortWrite
  /-- The step words still to come (30_encoding.md R49): which agent steps next and the pin levels it sees are the
  environment's choice (00_scope.md R9, 70_reset_and_hazards.md R135). Assumption log 1. -/
  events : List StepWord
  /-- `Cfg`, the parameters (00_scope.md R4): no operation writes them. Assumption log 4. -/
  cfg    : Cfg
  /-- The model's own: how many free values `RESET` has drawn. Assumption log 5. -/
  draws  : Nat
deriving DecidableEq, Repr

/-- Synchronous faults. "There are none" (60_exceptions.md R100): the type is empty, so no constructor raises anything. -/
inductive Fault where
deriving DecidableEq, Repr

/-- Why a step is refused. Each refusal is safe: the machine stops where the spec has no step. -/
inductive Refusal where
  /-- Raised only by an arm of `exec` whose instruction has no meaning yet: safe (the model stops). No arm is left so. -/
  | notModelled (mnemonic : String)
  /-- Raised by every operation when the configuration is not admissible: "a model refuses any other configuration"
  (00_scope.md R5): safe. -/
  | inadmissibleConfig
  /-- Raised by an operation that is not enabled in the state: a well-formed word that is not enabled "has no step from `s`:
  it does not fault and does not change the state" (30_encoding.md R50): safe. -/
  | notEnabled (op : Instr)
  /-- Raised by `step` on a step word of `0x28 .. 0x3F`, which "select no operation" (30_encoding.md R57): safe. -/
  | reservedStepWord (w : StepWord)
  /-- Raised by `step` when no step word is left: the observer has cut the execution (70_reset_and_hazards.md R118): safe. -/
  | endOfTrace
deriving DecidableEq, Repr

/-- The machine right after reset (10_state.md R29). `PA` and `PB` are unspecified there and hold free values (log 5). The
configuration is the reference profile (log 4). No step word is waiting (log 1). -/
def State.reset : State where
  tc := 0#16
  snap := 0#16
  ffl := false
  tm := false
  ie := true
  tf := false
  sel := .sched
  ph := .stHead
  pa := Config.freePortByte 0
  pb := Config.freePortByte 1
  hist := []
  events := []
  cfg := p16
  draws := 2

end Sys2Proof.Machine
end

