-- ==== Sys2Proof/Machine/Flags.lean ====
section
/-! DEFINITION. The flag and control-bit updates. There are no arithmetic condition codes (10_state.md R19); the flags are
`FFL` and `TM` (R17, R18), the tick's control bits `IE` and `TF` (R20, R21). -/

namespace Sys2Proof.Machine

/-- `FFL <- f` (43_mode_sequencer.md R85). -/
def State.setFfl (s : State) (f : Bool) : State := { s with ffl := f }

/-- `TM <- ~TM` (42_input_debounce.md R77). -/
def State.toggleTm (s : State) : State := { s with tm := !s.tm }

/-- `IE <- v`: 0 by `SNAP_DI`, 1 by `SNAP_EI` (41_virtual_clock.md R70, R72). -/
def State.setIe (s : State) (v : Bool) : State := { s with ie := v }

/-- `TF <- v`: 1 by `TICK_REQ`, 0 by `TICK_SVC` (40_tick.md R63, R64). -/
def State.setTf (s : State) (v : Bool) : State := { s with tf := v }

/-- Whether a tick can be served: "`TICK_SVC` is enabled exactly when `TF = 1` and `IE = 1`" (60_exceptions.md R103). -/
def tickEnabled (s : State) : Bool := s.tf && s.ie

end Sys2Proof.Machine
end

