-- ==== Sys2Proof/Machine/Operands.lean ====
section
/-! DEFINITION. How `DRIVE` forms its operand: unit conversion of the snapshot, the three bounded indices, the ROM address, the
ROM read and the split of a ROM word into the two port bytes (30_encoding.md R54 to R56, 20_memory.md R34, R35,
41_virtual_clock.md R73, R74, 44_output_mux.md R92). The sampled pin levels are operands of the operations themselves. -/

namespace Sys2Proof.Machine

/-- `SEL` codes (30_encoding.md R54). -/
def selCode : Sel → BitVec 2
  | .sched => 0b00#2
  | .allon => 0b01#2
  | .chase => 0b10#2
  | .strobe => 0b11#2

/-- `SEL[1]`: "a self-test pass is in progress" (10_state.md R22). -/
def selfTestSource (sel : Sel) : Bool := (selCode sel).getLsbD 1

/-- `seconds(SNAP) = SNAP div RATE` (41_virtual_clock.md R73). -/
def seconds (c : Cfg) (snap : Word) : Nat := snap.toNat / c.rate

/-- `hour(SNAP) = (SNAP div DIV) mod 16` (41_virtual_clock.md R74). -/
def hour (c : Cfg) (snap : Word) : Nat := snap.toNat / c.div % 16

/-- The chase index, `seconds mod N` (30_encoding.md R56). -/
def chaseIndex (c : Cfg) (snap : Word) : Nat := seconds c snap % c.n

/-- The strobe parity, `seconds mod 2` (30_encoding.md R56). -/
def strobeParity (c : Cfg) (snap : Word) : Nat := seconds c snap % 2

/-- The ROM word address of each source (30_encoding.md R56). -/
def muxAddr (c : Cfg) (sel : Sel) (snap : Word) : RomAddr :=
  match sel with
  | .sched => BitVec.ofNat 6 (0x00 + hour c snap)
  | .allon => 0x22#6
  | .chase => BitVec.ofNat 6 (0x10 + chaseIndex c snap)
  | .strobe => BitVec.ofNat 6 (0x20 + strobeParity c snap)

/-- `RomRead(a)`: the constant ROM by the address map of 20_memory.md R35; unused words read as `0x0000` (R40). -/
def romRead (c : Cfg) (a : RomAddr) : Word :=
  let n := a.toNat
  if n < 0x10 then c.sched.toList.getD n 0#16
  else if n < 0x20 then c.selftest.getD (n - 0x10) 0#16
  else if n < 0x22 then c.knuckle.toList.getD (n - 0x20) 0#16
  else if n = 0x22 then c.allon
  else 0#16

/-- `mux(SEL, SNAP)`: the ROM word `DRIVE` reads (44_output_mux.md R92). -/
def mux (c : Cfg) (sel : Sel) (snap : Word) : Word := romRead c (muxAddr c sel snap)

/-- The port-A byte of a ROM word, `e[7:0]` (30_encoding.md R55). -/
def portAByte (e : Word) : Byte := e.extractLsb' 0 8

/-- The port-B byte of a ROM word, `e[15:8]` (30_encoding.md R55). -/
def portBByte (e : Word) : Byte := e.extractLsb' 8 8

end Sys2Proof.Machine
end

