-- ==== Sys2Proof/Machine/Ops.lean ====
section
/-! DEFINITION. The named operations over the state: register writes, the port write, taking the tick interrupt, reset,
enabledness, the frame every operation runs in, and fetching the next step word. -/

namespace Sys2Proof.Machine

/-- `TC <- v`. -/
def State.setTc (s : State) (v : Word) : State := { s with tc := v }

/-- `SNAP <- v`. -/
def State.setSnap (s : State) (v : Word) : State := { s with snap := v }

/-- `SEL <- v`. -/
def State.setSel (s : State) (v : Sel) : State := { s with sel := v }

/-- `PH <- v` (00_scope.md R11). -/
def State.setPh (s : State) (v : Phase) : State := { s with ph := v }

/-- `PortWrite(a, b)`: both latches in one step, and the event joins the history (20_memory.md R41). Assumption log
6, 7. -/
def State.portWrite (s : State) (a b : Byte) : State := { s with pa := a, pb := b, hist := s.hist ++ [(a, b)] }

/-- The step words still to come. -/
def State.setEvents (s : State) (ws : List StepWord) : State := { s with events := ws }

/-- The increment of one served tick: `FAST_MULT` if `FFL = 1`, else 1 (40_tick.md R64). -/
def tickIncrement (c : Cfg) (ffl : Bool) : Nat := if ffl then c.fastMult else 1

/-- The counter after one increment: the untruncated sum, less `W` when `sum >= W` (40_tick.md R64; 90_conflicts.md C1). -/
def advance (c : Cfg) (tc : Word) (inc : Nat) : Word :=
  let sum := tc.toNat + inc
  BitVec.ofNat 16 (if c.w ≤ sum then sum - c.w else sum)

/-- Taking the tick interrupt: one step that acknowledges the firing flag and advances the counter. "It saves nothing: no
return address, no status word, no stack. It changes only `TF` and `TC`" (60_exceptions.md R105). There is no return
operation to stand beside it: the service "is complete when its step is" (R106). -/
def takeTick (s : State) : State :=
  (s.setTf false).setTc (advance s.cfg s.tc (tickIncrement s.cfg s.ffl))

/-- Power-on reset (70_reset_and_hazards.md R115). `PA` and `PB` become free values; the history keeps its events, the
configuration and the words still to come are not registers. -/
def powerOn (s : State) : State :=
  { s with
    tc := 0#16, snap := 0#16, ffl := false, tm := false, ie := true, tf := false, sel := .sched, ph := .stHead,
    pa := Config.freePortByte s.draws, pb := Config.freePortByte (s.draws + 1), draws := s.draws + 2 }

/-- Enabledness of an operation in a state (00_scope.md R9, 30_encoding.md R50). -/
def enabled (i : Instr) (s : State) : Bool :=
  match i.agent with
  | .main => i.phase == some s.ph
  | .tickUnit => tickEnabled s
  | .timer => true
  | .host => true

/-- The frame every operation runs in: an inadmissible configuration is refused (00_scope.md R5), a step that is not enabled
does not exist (30_encoding.md R50), and otherwise the operation has its effect. -/
def perform (i : Instr) (effect : State → State) (s : State) : Host.Outcome State Fault Refusal :=
  if s.cfg.admissible then
    if enabled i s then .next (effect s) else .refused (.notEnabled i)
  else .refused .inadmissibleConfig

/-- The next step word and the state with it taken, if one is left. -/
def fetch (s : State) : Option (StepWord × State) :=
  match s.events with
  | [] => none
  | w :: ws => some (w, s.setEvents ws)

/-- The state in which the operation of step word `w` is enabled, all else kept: the sequencer stands at a main word's phase,
a tick to be served is pending and unmasked. -/
def selectWord (w : StepWord) (s : State) : State :=
  match decode w with
  | .ok i =>
    match i.agent, i.phase with
    | .main, some p => s.setPh p
    | .tickUnit, _ => (s.setTf true).setIe true
    | _, _ => s
  | .error _ => s

end Sys2Proof.Machine
end

