-- ==== Sys2Proof/Machine/Clock.lean ====
section
/-! DEFINITION. The virtual clock's `read()`: `SNAP_DI`, `SNAP_RD`, `SNAP_EI` (41_virtual_clock.md). -/

namespace Sys2Proof.Machine

/-- `SNAP_DI` (41_virtual_clock.md R70): disable the tick interrupt. -/
def execSnapDi (s : State) : Host.Outcome State Fault Refusal :=
  perform .snapDi (fun s => (s.setIe false).setPh .snapRd) s

/-- `SNAP_RD` (R71): copy the counter, "all 16 bits in one step". -/
def execSnapRd (s : State) : Host.Outcome State Fault Refusal :=
  perform .snapRd (fun s => (s.setSnap s.tc).setPh .snapEi) s

/-- `SNAP_EI` (R72): restore the tick interrupt. -/
def execSnapEi (s : State) : Host.Outcome State Fault Refusal :=
  perform .snapEi (fun s => (s.setIe true).setPh .drive) s

end Sys2Proof.Machine
end

