-- ==== Sys2Proof/Machine/Debounce.lean ====
section
/-! DEFINITION. The debounce state machine: `N_TEST`, `N_WAIT` (42_input_debounce.md). -/

namespace Sys2Proof.Machine

/-- `N_TEST t` (42_input_debounce.md R77): TEST held toggles `TM` and goes to wait; released goes on. -/
def execNTest (t : Bool) (s : State) : Host.Outcome State Fault Refusal :=
  perform (.nTest t) (fun s => if t then s.toggleTm.setPh .nWait else s.setPh .nSel) s

/-- `N_WAIT t` (R78): still held, sample again; released, go on. -/
def execNWait (t : Bool) (s : State) : Host.Outcome State Fault Refusal :=
  perform (.nWait t) (fun s => s.setPh (if t then .nWait else .nSel)) s

end Sys2Proof.Machine
end

