-- ==== Sys2Proof/Machine/Output.lean ====
section
/-! DEFINITION. The output port multiplexer: `DRIVE` (44_output_mux.md). -/

namespace Sys2Proof.Machine

/-- `DRIVE` (44_output_mux.md R91): write both ports from the selected source and return to the loop head that `SEL[1]`
names. -/
def execDrive (s : State) : Host.Outcome State Fault Refusal :=
  perform .drive
    (fun s =>
      let e := mux s.cfg s.sel s.snap
      (s.portWrite (portAByte e) (portBByte e)).setPh (if selfTestSource s.sel then .stHead else .nFf)) s

end Sys2Proof.Machine
end

