-- ==== Sys2Proof/Machine/Power.lean ====
section
/-! DEFINITION. Power-on reset: `RESET` (70_reset_and_hazards.md). -/

namespace Sys2Proof.Machine

/-- `RESET` (70_reset_and_hazards.md R115): "Enabled in every state". -/
def execReset (s : State) : Host.Outcome State Fault Refusal :=
  perform .reset powerOn s

end Sys2Proof.Machine
end

