-- ==== Sys2Proof/Machine/Sequencer.lean ====
section
/-! DEFINITION. Mode sequencer and select: `ST_HEAD`, `ST_SEL`, `N_FF`, `N_SEL` (43_mode_sequencer.md). -/

namespace Sys2Proof.Machine

/-- `ST_HEAD f` (43_mode_sequencer.md R83): FF held, go on with self-test; released, leave it for good. -/
def execStHead (f : Bool) (s : State) : Host.Outcome State Fault Refusal :=
  perform (.stHead f) (fun s => s.setPh (if f then .stSel else .nFf)) s

/-- `ST_SEL t` (R84): TEST held selects chase, released strobe. -/
def execStSel (t : Bool) (s : State) : Host.Outcome State Fault Refusal :=
  perform (.stSel t) (fun s => (s.setSel (if t then .chase else .strobe)).setPh .snapDi) s

/-- `N_FF f` (R85): `FFL <- f`. -/
def execNFf (f : Bool) (s : State) : Host.Outcome State Fault Refusal :=
  perform (.nFf f) (fun s => (s.setFfl f).setPh .nTest) s

/-- `N_SEL` (R86): test mode selects all-on and needs no snapshot; otherwise the schedule. -/
def execNSel (s : State) : Host.Outcome State Fault Refusal :=
  perform .nSel (fun s => if s.tm then (s.setSel .allon).setPh .drive else (s.setSel .sched).setPh .snapDi) s

end Sys2Proof.Machine
end

