-- ==== Sys2Proof/Machine/Tick.lean ====
section
/-! DEFINITION. Tick source and tick counter: `TICK_REQ`, `TICK_SVC` (40_tick.md). -/

namespace Sys2Proof.Machine

/-- `TICK_REQ` (40_tick.md R63): `TF <- 1`, whether or not a tick is pending already. -/
def execTickReq (s : State) : Host.Outcome State Fault Refusal :=
  perform .tickReq (fun s => s.setTf true) s

/-- `TICK_SVC` (40_tick.md R64): the tick interrupt is taken. -/
def execTickSvc (s : State) : Host.Outcome State Fault Refusal :=
  perform .tickSvc takeTick s

end Sys2Proof.Machine
end

