-- ==== Sys2Proof/Machine/Dispatch.lean ====
section
/-! DEFINITION. One arm per operation of BBCORE (30_encoding.md R53). -/

namespace Sys2Proof.Machine

/-- The meaning of one operation in a state. -/
def exec (i : Instr) (s : State) : Host.Outcome State Fault Refusal :=
  match i with
  | .stHead f => Sys2Proof.Machine.execStHead f s
  | .stSel t => Sys2Proof.Machine.execStSel t s
  | .nFf f => Sys2Proof.Machine.execNFf f s
  | .nTest t => Sys2Proof.Machine.execNTest t s
  | .nWait t => Sys2Proof.Machine.execNWait t s
  | .nSel => Sys2Proof.Machine.execNSel s
  | .snapDi => Sys2Proof.Machine.execSnapDi s
  | .snapRd => Sys2Proof.Machine.execSnapRd s
  | .snapEi => Sys2Proof.Machine.execSnapEi s
  | .drive => Sys2Proof.Machine.execDrive s
  | .tickSvc => Sys2Proof.Machine.execTickSvc s
  | .tickReq => Sys2Proof.Machine.execTickReq s
  | .reset => Sys2Proof.Machine.execReset s

end Sys2Proof.Machine
end

