-- ==== Sys2Proof/Machine/Step.lean ====
section
/-! DEFINITION. One step of the machine: the next step word is taken, decoded and run. -/

namespace Sys2Proof.Machine

/-- One step: take the next step word (30_encoding.md R49) and perform its operation. No word left: the execution was cut
there. A reserved word selects no operation (R57). -/
def step (s : State) : Host.Outcome State Fault Refusal :=
  match fetch s with
  | none => .refused .endOfTrace
  | some (w, s') =>
    match decode w with
    | .ok i => exec i s'
    | .error _ => .refused (.reservedStepWord w)

/-- `s` with the step word `w` as the next one and its operation enabled, so that the very next step runs it (log 1). -/
def State.withFetchWord (s : State) (nbits w : Nat) : State :=
  selectWord (BitVec.ofNat 8 (w % 2 ^ nbits)) (s.setEvents (BitVec.ofNat 8 (w % 2 ^ nbits) :: s.events))

end Sys2Proof.Machine
end

