-- ==== Sys2Proof/Machine/Trace.lean ====
section
/-! DEFINITION. Finite executions: running a list of operations, the pseudo-operations of 30_encoding.md R61, and the textual
notation of R60. -/

namespace Sys2Proof.Machine

/-- Run operations one after the other (00_scope.md R7), stopping at the first that has no step. -/
def runOps : List Instr → State → Host.Outcome State Fault Refusal
  | [], s => .next s
  | i :: is, s =>
    match exec i s with
    | .next t => runOps is t
    | .fault r => .fault r
    | .refused r => .refused r

/-- The operations of the main sequencer in a trace; what is left out are ticks and resets. -/
def mainOps (is : List Instr) : List Instr := is.filter fun i => i.agent == .main

/-- The pseudo-operations (30_encoding.md R61). -/
inductive Pseudo where
  | tick
  | ticks (k : Nat)
  | snap
  | passSt (t : Bool)
  | passSched (f : Bool)
  | passAllon (f : Bool)
  | press (f : Bool) (k : Nat)
deriving DecidableEq, Repr

/-- "each expands to exactly the steps shown" (30_encoding.md R61). -/
def expand : Pseudo → List Instr
  | .tick => [.tickReq, .tickSvc]
  | .ticks k => (List.replicate k [Instr.tickReq, Instr.tickSvc]).flatten
  | .snap => [.snapDi, .snapRd, .snapEi]
  | .passSt t => [.stHead true, .stSel t, .snapDi, .snapRd, .snapEi, .drive]
  | .passSched f => [.nFf f, .nTest false, .nSel, .snapDi, .snapRd, .snapEi, .drive]
  | .passAllon f => [.nFf f, .nTest false, .nSel, .drive]
  | .press f k => [.nFf f, .nTest true] ++ List.replicate k (.nWait true) ++ [.nWait false]

/-- A step in trace syntax: the mnemonic, then the sampled operand if any (30_encoding.md R60). -/
def renderOp (i : Instr) : String :=
  match i.sample with
  | none => i.mnemonic
  | some (.test, level) => i.mnemonic ++ (if level then " t=1" else " t=0")
  | some (.ff, level) => i.mnemonic ++ (if level then " f=1" else " f=0")

/-- A trace in trace syntax: steps separated by `;` (30_encoding.md R60). -/
def renderTrace (is : List Instr) : String := "; ".intercalate (is.map renderOp)

/-- One hexadecimal digit. -/
def hexDigit (n : Nat) : Char := if n < 10 then Char.ofNat (48 + n) else Char.ofNat (55 + n)

/-- A number in `digits` hexadecimal digits. -/
def renderHex : (digits : Nat) → Nat → List Char
  | 0, _ => []
  | d + 1, n => renderHex d (n / 16) ++ [hexDigit (n % 16)]

/-- A number in `digits` binary digits. -/
def renderBin : (digits : Nat) → Nat → List Char
  | 0, _ => []
  | d + 1, n => renderBin d (n / 2) ++ [hexDigit (n % 2)]

/-- One flag. -/
def renderBit (b : Bool) : String := if b then "1" else "0"

/-- A state in the notation of 30_encoding.md R60, numbers as in the programs of 95_test_vectors.md; a port byte that is
unspecified is printed `??`, so whether the ports are specified is an argument. -/
def renderState (portsSpecified : Bool) (s : State) : String :=
  let port (b : Byte) : String := if portsSpecified then String.ofList (renderHex 2 b.toNat) else "??"
  "TC=" ++ String.ofList (renderHex 4 s.tc.toNat) ++ " SNAP=" ++ String.ofList (renderHex 4 s.snap.toNat) ++
  " FFL=" ++ renderBit s.ffl ++ " TM=" ++ renderBit s.tm ++ " IE=" ++ renderBit s.ie ++ " TF=" ++ renderBit s.tf ++
  " SEL=" ++ String.ofList (renderBin 2 (selCode s.sel).toNat) ++ " PH=" ++ String.ofList (renderHex 1 s.ph.code.toNat) ++
  " PA=" ++ port s.pa ++ " PB=" ++ port s.pb

end Sys2Proof.Machine
end

