-- ==== Sys2Proof/Machine/Views.lean ====
section
/-! DEFINITION. The derived views of the state: the 16-bit control and status view `CSR` (10_state.md R24), ModeState (R27,
30_encoding.md R62) and self-test active (R28). No operation reads or writes a view. -/

namespace Sys2Proof.Machine

/-- `CSR = {0b000000, IE, TF, FFL, TM, SEL[1:0], PH[3:0]}` (10_state.md R24). -/
def csr (s : State) : Word :=
  0#6 ++ BitVec.ofBool s.ie ++ BitVec.ofBool s.tf ++ BitVec.ofBool s.ffl ++ BitVec.ofBool s.tm ++ selCode s.sel ++ s.ph.code

/-- The document's five-valued ModeState (10_state.md R27). -/
inductive ModeState where
  | bootSelftest | selftestChase | selftestStrobe | testmodeOn | scheduled
deriving DecidableEq, Repr

/-- ModeState codes, stored nowhere (30_encoding.md R62). -/
def modeCode : ModeState → Nat
  | .bootSelftest => 0
  | .selftestChase => 1
  | .selftestStrobe => 2
  | .testmodeOn => 3
  | .scheduled => 4

/-- `mode(PH, SEL, TM)` (10_state.md R27). -/
def mode (ph : Phase) (sel : Sel) (tm : Bool) : ModeState :=
  match ph with
  | .stHead | .stSel => .bootSelftest
  | .snapDi | .snapRd | .snapEi | .drive =>
    match sel with
    | .chase => .selftestChase
    | .strobe => .selftestStrobe
    | .allon => .testmodeOn
    | .sched => .scheduled
  | .nFf | .nTest | .nWait | .nSel => if tm then .testmodeOn else .scheduled

/-- `ST_ACTIVE` (10_state.md R28). -/
def stActive (s : State) : Bool :=
  match s.ph with
  | .stHead | .stSel => true
  | .snapDi | .snapRd | .snapEi | .drive => selfTestSource s.sel
  | .nFf | .nTest | .nWait | .nSel => false

end Sys2Proof.Machine
end

