-- ==== Sys2Proof/Safety.lean ====
section
/-! DEFINITION. The terms claims use: the state invariant (10_state.md R26), infinite executions (00_scope.md R7), fairness
(70_reset_and_hazards.md R133) and the named environment assumptions (R134). None of these is part of the step. -/

namespace Sys2Proof.Machine

/-- The phases of the snapshot and the drive, in which `SEL` says what the pass resolved to (10_state.md R27). -/
def resolvedPhase : Phase → Bool
  | .snapDi | .snapRd | .snapEi | .drive => true
  | .stHead | .stSel | .nFf | .nTest | .nWait | .nSel => false

/-- The state invariant. The first four fields are 00_scope.md R5 and 10_state.md R26 (a), (c); the others say in one state what R17, R18,
R26 (e), (f) and R28 say about executions, so that every step keeps the whole. Assumption log 18. -/
structure Inv (s : State) : Prop where
  /-- The configuration is admissible (00_scope.md R5). -/
  admissible : s.cfg.admissible = true
  /-- `0 <= TC < W` (R26 (a)). -/
  tcBound : s.tc.toNat < s.cfg.w
  /-- `0 <= SNAP < W` (R26 (a)). -/
  snapBound : s.snap.toNat < s.cfg.w
  /-- "`IE = 0` exactly when `PH` is `SNAP_RD` or `SNAP_EI`" (R26 (c)). -/
  maskWindow : s.ie = false ↔ s.ph = .snapRd ∨ s.ph = .snapEi
  /-- While self-test is active neither fast-forward nor test mode is set (R17, R18). -/
  selfTestQuiet : stActive s = true → s.ffl = false ∧ s.tm = false
  /-- A pass that takes a snapshot is not an all-on pass (R26 (f)). -/
  snapshotSource : s.ph = .snapDi ∨ s.ph = .snapRd ∨ s.ph = .snapEi → s.sel ≠ .allon
  /-- In a resolved pass a schedule source means test mode is off, the all-on source that it is on (43_mode_sequencer.md R86). -/
  sourceMatchesMode : resolvedPhase s.ph = true → (s.sel = .sched → s.tm = false) ∧ (s.sel = .allon → s.tm = true)

/-- An infinite execution: operation `op n` takes `state n` to `state (n + 1)` (00_scope.md R7; "an execution is infinite
unless cut by the observer", 70_reset_and_hazards.md R118). -/
structure Execution where
  state : Nat → State
  op    : Nat → Instr
  steps : ∀ n, exec (op n) (state n) = .next (state (n + 1))

/-- The operations of the first `n` steps. -/
def opsBefore (e : Execution) (n : Nat) : List Instr := (List.range n).map e.op

/-- `F_MAIN`: "the main sequencer takes steps infinitely often" (70_reset_and_hazards.md R133). -/
def FMain (e : Execution) : Prop := ∀ n, ∃ m, n ≤ m ∧ (e.op m).agent = .main

/-- `F_TICK`: "if `TICK_SVC` stays enabled it is eventually taken" (R133), weak fairness. -/
def FTick (e : Execution) : Prop :=
  ∀ n, (∀ m, n ≤ m → enabled .tickSvc (e.state m) = true) → ∃ m, n ≤ m ∧ e.op m = .tickSvc

/-- Strong fairness of the tick unit: enabled again and again, it is eventually taken. The model's own, stronger than
`F_TICK`. Assumption log 9. -/
def FTickStrong (e : Execution) : Prop :=
  ∀ n, (∀ k, n ≤ k → ∃ m, k ≤ m ∧ enabled .tickSvc (e.state m) = true) → ∃ m, n ≤ m ∧ e.op m = .tickSvc

/-- `A_NO_OVERRUN`: "every `TICK_REQ` step finds `TF = 0`" (R134). -/
def NoOverrun (e : Execution) : Prop := ∀ n, e.op n = .tickReq → (e.state n).tf = false

/-- `A_NO_POWER_CYCLE`: "no `RESET` step occurs after the first" (R134); the first, if it is in the execution, is step 0. -/
def NoPowerCycle (e : Execution) : Prop := ∀ n, 0 < n → e.op n ≠ .reset

/-- A timetable for `A_RATE`: `request k` is the step of the `k`-th `TICK_REQ`, at real time `start + k / RATE` seconds, and
there is no other `TICK_REQ` (R134). Assumption log 10. -/
structure Timetable (e : Execution) (time : Nat → Rat) (start : Rat) (request : Nat → Nat) : Prop where
  ordered : ∀ j k, j < k → request j < request k
  exactly : ∀ n, e.op n = .tickReq ↔ ∃ k, request k = n
  onTime  : ∀ k, time (request k) = start + (k : Rat) / ((e.state 0).cfg.rate : Rat)

/-- `A_RATE`: "the timer takes one `TICK_REQ` step every `1/RATE` seconds of real time, for ever" (R134). `time n` is the real
time of step `n`. -/
def ARate (e : Execution) (time : Nat → Rat) : Prop := ∃ start request, Timetable e time start request

/-- The levels of the two pins at the instant of every step, agreeing with what the operations sample (20_memory.md R42). -/
structure PinLevels (e : Execution) where
  ff   : Nat → Bool
  test : Nat → Bool
  seenFf   : ∀ n v, (e.op n).sample = some (.ff, v) → v = ff n
  seenTest : ∀ n v, (e.op n).sample = some (.test, v) → v = test n

/-- Step `j` is the first `ST_HEAD` after the `RESET` at step `i`. -/
def FirstHeadAfterReset (e : Execution) (i j : Nat) : Prop :=
  e.op i = .reset ∧ i < j ∧ (e.op j).phase = some .stHead ∧
  ∀ k, i < k → k < j → (e.op k).phase ≠ some .stHead ∧ e.op k ≠ .reset

/-- `A_FF_BOOT`: "the FF level does not change between `RESET` and the first `ST_HEAD`" (R134). -/
def FfBoot (e : Execution) (pins : PinLevels e) : Prop :=
  ∀ i j, FirstHeadAfterReset e i j → ∀ k, i ≤ k → k ≤ j → pins.ff k = pins.ff i

/-- The TEST level that step `n` samples, if it is an `N_TEST` or an `N_WAIT`. -/
def testSample (e : Execution) (n : Nat) : Option Bool :=
  match e.op n with
  | .nTest t => some t
  | .nWait t => some t
  | .stHead _ | .stSel _ | .nFf _ | .nSel | .snapDi | .snapRd | .snapEi | .drive | .tickSvc | .tickReq | .reset => none

/-- `A_CLEAN_PRESS` (R134). `press n` is the physical press of TEST going on at step `n`, if any. Assumption log 10. -/
structure CleanPress (e : Execution) (press : Nat → Option Nat) : Prop where
  /-- A 1 sample is taken during a physical press. -/
  heldInPress : ∀ n, testSample e n = some true → press n ≠ none
  /-- "1 for one unbroken run per physical press". -/
  unbroken : ∀ a b c p, a < b → b < c → press a = some p → press c = some p →
    testSample e a = some true → testSample e c = some true → testSample e b ≠ some false
  /-- "each physical press is sampled at least once". -/
  sampled : ∀ n p, press n = some p → ∃ m, press m = some p ∧ testSample e m = some true
  /-- "two presses are separated by at least one `N_TEST t=0` sample". -/
  separated : ∀ a c p q, a < c → press a = some p → press c = some q → p ≠ q →
    testSample e a = some true → testSample e c = some true → ∃ b, a < b ∧ b < c ∧ e.op b = .nTest false

end Sys2Proof.Machine
end

