-- ==== Sys2Proof/Certificates/Slice0/Obligations.lean ====
section
/-! DEFINITION. The statements for the provers. Each docstring names the rule of spec/ it formalises. -/

open Sys2Proof Sys2Proof.Machine

/-! ### Reset and configuration -/

/-- 10_state.md R29: the registers right after reset; `PA`, `PB` are unspecified there and not mentioned. The values are the
spec's own decisions (92_eei_decisions.md D10, D11, D13). R24: `CSR` after reset is `0x0200`; R116: the view is BOOT_SELFTEST. -/
def Obligations.ResetStateHoldsTheSpecValues : Prop :=
  State.reset.tc = 0#16 ∧ State.reset.snap = 0#16 ∧ State.reset.ffl = false ∧ State.reset.tm = false ∧
  State.reset.ie = true ∧ State.reset.tf = false ∧ State.reset.sel = .sched ∧ State.reset.ph = .stHead ∧
  csr State.reset = 0x0200#16 ∧ mode State.reset.ph State.reset.sel State.reset.tm = .bootSelftest ∧
  stActive State.reset = true

/-- 00_scope.md R6 and 20_memory.md R36 to R39: the two profiles and their ROM contents, the spec's own decisions
(92_eei_decisions.md D9, D21). -/
def Obligations.ReferenceProfilesMatchTheSpec : Prop :=
  p16.admissible = true ∧ p57.admissible = true ∧
  (p16.cw, p16.w, p16.rate, p16.fastMult, p16.div, p16.n) = (16, 65536, 16, 64, 4096, 10) ∧
  (p57.cw, p57.w, p57.rate, p57.fastMult, p57.div, p57.n) = (16, 57600, 16, 64, 3600, 10) ∧
  (∀ h : Fin 16, p16.sched.toList.getD h.val 0#16 = BitVec.ofNat 16 (256 * (0xFF - 0x11 * h.val) + 0x11 * h.val)) ∧
  (∀ i : Fin 10, p16.selftest.getD i.val 0#16 = BitVec.ofNat 16 (2 ^ i.val)) ∧
  p16.knuckle.toList = [0x0155#16, 0x02AA#16] ∧ p16.allon = 0x03FF#16 ∧
  (p57.sched, p57.selftest, p57.knuckle, p57.allon) = (p16.sched, p16.selftest, p16.knuckle, p16.allon)

/-- 00_scope.md R5: which configurations are admissible (92_eei_decisions.md D9), that a model refuses any other, and that an
admissible one runs: the operations that are always enabled (R9) take a next state. The refusal's name and the place of the
configuration are the model's choice (log 4). -/
def Obligations.InadmissibleConfigurationIsRefused : Prop :=
  (∀ c : Cfg, c.admissible = true ↔
    c.cw = 16 ∧ 1 ≤ c.w ∧ c.w ≤ 2 ^ c.cw ∧ 1 ≤ c.fastMult ∧ c.fastMult ≤ c.w ∧ 1 ≤ c.div ∧ 1 ≤ c.rate ∧
    c.w = 16 * c.div ∧ 1 ≤ c.n ∧ c.n ≤ 16) ∧
  (∀ (i : Instr) (s : State), s.cfg.admissible = false → exec i s = .refused .inadmissibleConfig) ∧
  ∀ s : State, s.cfg.admissible = true → (∃ t, exec .tickReq s = .next t) ∧ ∃ t, exec .reset s = .next t

/-! ### The thirteen operations: when each has a step, the whole next state, its words

In each of them the words are the spec's own choice (92_eei_decisions.md D2, D3) and that an operation which is not enabled is
`refused (notEnabled ..)` is the model's (log 3). -/

/-- 43_mode_sequencer.md R83, `ST_HEAD`. That it is both the boot check and the loop condition is the spec's own decision
(92_eei_decisions.md D13). Words: D2, D3; refusal: log 3. -/
def Obligations.StHeadDecidesBetweenTheLoops : Prop :=
  ∀ (f : Bool) (s : State), s.cfg.admissible = true →
    (s.ph = .stHead → exec (.stHead f) s = .next { s with ph := if f then .stSel else .nFf }) ∧
    (s.ph ≠ .stHead → exec (.stHead f) s = .refused (.notEnabled (.stHead f))) ∧
    encode (.stHead f) = (if f then 0x01#8 else 0x00#8) ∧
    ∀ w : StepWord, w &&& 0xFD#8 = encode (.stHead f) → decode w = .ok (.stHead f)

/-- 43_mode_sequencer.md R84, `ST_SEL`. Words: D2, D3; refusal: log 3. -/
def Obligations.StSelChoosesTheSelfTestSource : Prop :=
  ∀ (t : Bool) (s : State), s.cfg.admissible = true →
    (s.ph = .stSel → exec (.stSel t) s = .next { s with sel := if t then .chase else .strobe, ph := .snapDi }) ∧
    (s.ph ≠ .stSel → exec (.stSel t) s = .refused (.notEnabled (.stSel t))) ∧
    encode (.stSel t) = (if t then 0x06#8 else 0x04#8) ∧
    ∀ w : StepWord, w &&& 0xFE#8 = encode (.stSel t) → decode w = .ok (.stSel t)

/-- 43_mode_sequencer.md R85, `N_FF`, "the only writer of `FFL` besides `RESET`": the tick unit sees the new value from its
next step on (immediate visibility is the spec's own decision D23, log 8), and in the wait the flag does not follow the button.
Words: D2, D3; refusal: log 3. -/
def Obligations.NFfCopiesTheFfLevel : Prop :=
  (∀ (f : Bool) (s : State), s.cfg.admissible = true →
    (s.ph = .nFf → exec (.nFf f) s = .next { s with ffl := f, ph := .nTest }) ∧
    (s.ph ≠ .nFf → exec (.nFf f) s = .refused (.notEnabled (.nFf f))) ∧
    (∀ u v : State, exec (.nFf f) s = .next u → exec .tickSvc u = .next v →
      v.tc = advance s.cfg s.tc (if f then s.cfg.fastMult else 1)) ∧
    encode (.nFf f) = (if f then 0x09#8 else 0x08#8) ∧
    ∀ w : StepWord, w &&& 0xFD#8 = encode (.nFf f) → decode w = .ok (.nFf f)) ∧
  ∀ (i : Instr) (s t : State), exec i s = .next t → (∀ f, i ≠ .nFf f) → i ≠ .reset → t.ffl = s.ffl

/-- 42_input_debounce.md R77, `N_TEST`: the outputs do not show the new `TM` before the wait ends, and the operation is never
reached during self-test. The history field is log 6. Words: D2, D3; refusal: log 3. -/
def Obligations.NTestTogglesTestModeOnPress : Prop :=
  ∀ (t : Bool) (s : State), s.cfg.admissible = true →
    (s.ph = .nTest → exec (.nTest t) s = .next (if t then { s with tm := !s.tm, ph := .nWait } else { s with ph := .nSel })) ∧
    (s.ph ≠ .nTest → exec (.nTest t) s = .refused (.notEnabled (.nTest t))) ∧
    (∀ (is : List Instr) (u v : State), exec (.nTest true) s = .next u → .reset ∉ is → .nWait false ∉ is →
      runOps is u = .next v → v.pa = s.pa ∧ v.pb = s.pb ∧ v.hist = s.hist ∧ v.tm = !s.tm) ∧
    (stActive s = true → exec (.nTest t) s = .refused (.notEnabled (.nTest t))) ∧
    encode (.nTest t) = (if t then 0x0E#8 else 0x0C#8) ∧
    ∀ w : StepWord, w &&& 0xFE#8 = encode (.nTest t) → decode w = .ok (.nTest t)

/-- 42_input_debounce.md R78, `N_WAIT`: it has no timeout, holding longer changes nothing at all, and the tick unit keeps
running. Words: D2, D3; refusal: log 3. -/
def Obligations.NWaitHoldsUntilRelease : Prop :=
  (∀ (t : Bool) (s : State), s.cfg.admissible = true →
    (s.ph = .nWait → exec (.nWait t) s = .next { s with ph := if t then .nWait else .nSel }) ∧
    (s.ph ≠ .nWait → exec (.nWait t) s = .refused (.notEnabled (.nWait t))) ∧
    encode (.nWait t) = (if t then 0x12#8 else 0x10#8) ∧
    ∀ w : StepWord, w &&& 0xFE#8 = encode (.nWait t) → decode w = .ok (.nWait t)) ∧
  (∀ (k : Nat) (s : State), s.cfg.admissible = true → s.ph = .nWait → runOps (List.replicate k (.nWait true)) s = .next s) ∧
  ∀ s : State, s.cfg.admissible = true → s.ph = .nWait → s.tf = true → s.ie = true →
    exec .tickSvc s = .next { s with tf := false, tc := advance s.cfg s.tc (tickIncrement s.cfg s.ffl) }

/-- 43_mode_sequencer.md R86, `N_SEL`. Skipping the snapshot in test mode is the spec's own decision (D15).
Words: D2, D3; refusal: log 3. -/
def Obligations.NSelChoosesAllOnOrSchedule : Prop :=
  ∀ s : State, s.cfg.admissible = true →
    (s.ph = .nSel → exec .nSel s =
      .next (if s.tm then { s with sel := .allon, ph := .drive } else { s with sel := .sched, ph := .snapDi })) ∧
    (s.ph ≠ .nSel → exec .nSel s = .refused (.notEnabled .nSel)) ∧
    encode .nSel = 0x14#8 ∧
    ∀ w : StepWord, w &&& 0xFC#8 = 0x14#8 → decode w = .ok .nSel

/-- 41_virtual_clock.md R70, `SNAP_DI`: a pending tick stays pending and is not served until after `SNAP_EI`, and `IE` was
always 1 before. Words: D2, D3; refusal: log 3. -/
def Obligations.SnapDiMasksTheTick : Prop :=
  ∀ s : State, s.cfg.admissible = true →
    (s.ph = .snapDi → exec .snapDi s = .next { s with ie := false, ph := .snapRd } ∧
      exec .tickSvc { s with ie := false, ph := .snapRd } = .refused (.notEnabled .tickSvc)) ∧
    (∀ (is : List Instr) (u : State), .reset ∉ is → .snapEi ∉ is → runOps (.snapDi :: is) s = .next u →
      .tickSvc ∉ is ∧ (s.tf = true → u.tf = true)) ∧
    (s.ph ≠ .snapDi → exec .snapDi s = .refused (.notEnabled .snapDi)) ∧
    (Inv s → s.ph = .snapDi → s.ie = true) ∧
    encode .snapDi = 0x18#8 ∧
    ∀ w : StepWord, w &&& 0xFC#8 = 0x18#8 → decode w = .ok .snapDi

/-- 41_virtual_clock.md R71, `SNAP_RD`. Words: D2, D3; refusal: log 3. -/
def Obligations.SnapRdCopiesTheCounter : Prop :=
  ∀ s : State, s.cfg.admissible = true →
    (s.ph = .snapRd → exec .snapRd s = .next { s with snap := s.tc, ph := .snapEi }) ∧
    (s.ph ≠ .snapRd → exec .snapRd s = .refused (.notEnabled .snapRd)) ∧
    encode .snapRd = 0x1C#8 ∧
    ∀ w : StepWord, w &&& 0xFC#8 = 0x1C#8 → decode w = .ok .snapRd

/-- 41_virtual_clock.md R72, `SNAP_EI`: with a tick pending the tick unit becomes enabled. That "restored" is "set to 1" is the
spec's own decision (D19). Words: D2, D3; refusal: log 3. -/
def Obligations.SnapEiUnmasksTheTick : Prop :=
  ∀ s : State, s.cfg.admissible = true →
    (s.ph = .snapEi → exec .snapEi s = .next { s with ie := true, ph := .drive } ∧
      (s.tf = true → ∃ t, exec .tickSvc { s with ie := true, ph := .drive } = .next t)) ∧
    (s.ph ≠ .snapEi → exec .snapEi s = .refused (.notEnabled .snapEi)) ∧
    encode .snapEi = 0x20#8 ∧
    ∀ w : StepWord, w &&& 0xFC#8 = 0x20#8 → decode w = .ok .snapEi

/-- 44_output_mux.md R91, `DRIVE`: the pair is written and is an event every time; `SNAP` is not read when `SEL = ALLON`; the
return phase depends on `SEL[1]` only; the rule's example. Writing the pair in one step is the spec's own decision D16 (log 7), the
history field is log 6, the example's bytes are D21. Words: D2, D3; refusal: log 3. -/
def Obligations.DriveWritesThePairAndReturns : Prop :=
  (∀ s : State, s.cfg.admissible = true →
    (s.ph = .drive → exec .drive s =
      .next { s with
        pa := (mux s.cfg s.sel s.snap).extractLsb' 0 8
        pb := (mux s.cfg s.sel s.snap).extractLsb' 8 8
        hist := s.hist ++ [((mux s.cfg s.sel s.snap).extractLsb' 0 8, (mux s.cfg s.sel s.snap).extractLsb' 8 8)]
        ph := if s.sel = .chase ∨ s.sel = .strobe then .stHead else .nFf }) ∧
    (s.ph ≠ .drive → exec .drive s = .refused (.notEnabled .drive)) ∧
    (∀ v : Word, mux s.cfg .allon v = mux s.cfg .allon s.snap)) ∧
  (mux p16 .sched 0x5000#16).extractLsb' 0 8 = 0x55#8 ∧ (mux p16 .sched 0x5000#16).extractLsb' 8 8 = 0xAA#8 ∧
  encode .drive = 0x24#8 ∧
  ∀ w : StepWord, w &&& 0xFC#8 = 0x24#8 → decode w = .ok .drive

/-- 40_tick.md R64, `TICK_SVC`: the pseudocode on the untruncated sum, in every state; with `W = 2^16` the update is the 16-bit
truncation. The untruncated sum and `>=` are the spec's own decisions (D7, D8; 90_conflicts.md C1).
Words: D2, D3; refusal: log 3. -/
def Obligations.TickSvcAdvancesTheCounter : Prop :=
  ∀ s : State, s.cfg.admissible = true →
    (s.tf = true ∧ s.ie = true → exec .tickSvc s =
      .next { s with
        tf := false
        tc := BitVec.ofNat 16
          (if s.cfg.w ≤ s.tc.toNat + (if s.ffl then s.cfg.fastMult else 1)
            then s.tc.toNat + (if s.ffl then s.cfg.fastMult else 1) - s.cfg.w
            else s.tc.toNat + (if s.ffl then s.cfg.fastMult else 1)) }) ∧
    (¬(s.tf = true ∧ s.ie = true) → exec .tickSvc s = .refused (.notEnabled .tickSvc)) ∧
    (∀ t, s.cfg.w = 65536 → exec .tickSvc s = .next t →
      t.tc = s.tc + BitVec.ofNat 16 (if s.ffl then s.cfg.fastMult else 1)) ∧
    encode .tickSvc = 0x40#8 ∧
    ∀ w : StepWord, w &&& 0xC0#8 = 0x40#8 → decode w = .ok .tickSvc

/-- 40_tick.md R63, `TICK_REQ`: always enabled; a second request merges into the first, and one service serves both; with
`IE = 0` the request waits in `TF` until `SNAP_EI`, which the spec takes from general knowledge (G1, log 19).
Words: D2, D3; refusal: log 3. -/
def Obligations.TickReqSetsTheFiringFlag : Prop :=
  ∀ s : State, s.cfg.admissible = true →
    exec .tickReq s = .next { s with tf := true } ∧
    (s.tf = true → exec .tickReq s = .next s) ∧
    runOps [.tickReq, .tickReq, .tickSvc] s = runOps [.tickReq, .tickSvc] s ∧
    (s.ie = false → exec .tickSvc { s with tf := true } = .refused (.notEnabled .tickSvc)) ∧
    (s.ph = .snapEi → ∃ t, runOps [.tickReq, .snapEi, .tickSvc] s = .next t) ∧
    encode .tickReq = 0x80#8 ∧
    ∀ w : StepWord, w &&& 0xC0#8 = 0x80#8 → decode w = .ok .tickReq

/-- 70_reset_and_hazards.md R115, `RESET`: enabled in every state, every register but `PA` and `PB` at its reset value, no port
event. Nothing is said of what `PA`, `PB` and the count of draws become. The values are the spec's own decisions (D10, D11, D29).
That the free values of `PA`, `PB` are counted in State is log 5, the history field log 6, `events` and `cfg` log 1, 4; words: D2, D3. -/
def Obligations.ResetLoadsTheResetState : Prop :=
  (∀ s : State, s.cfg.admissible = true → ∃ (a b : Byte) (d : Nat), exec .reset s =
    .next { tc := 0#16, snap := 0#16, ffl := false, tm := false, ie := true, tf := false, sel := .sched, ph := .stHead,
            pa := a, pb := b, hist := s.hist, events := s.events, cfg := s.cfg, draws := d }) ∧
  encode .reset = 0xC0#8 ∧
  ∀ w : StepWord, w &&& 0xC0#8 = 0xC0#8 → decode w = .ok .reset

/-! ### The step -/

/-- 00_scope.md R9, 30_encoding.md R50: exactly the enabled operations have a step, and the others change nothing. The
refusal's name is the model's choice (log 3). -/
def Obligations.EnabledOperationsCompleteAndOthersHaveNoStep : Prop :=
  ∀ (i : Instr) (s : State), s.cfg.admissible = true →
    ((∃ t, exec i s = .next t) ↔
      i = .tickReq ∨ i = .reset ∨ (i = .tickSvc ∧ s.tf = true ∧ s.ie = true) ∨ i.phase = some s.ph) ∧
    ((¬∃ t, exec i s = .next t) → exec i s = .refused (.notEnabled i))

/-- The step on the next word (log 1, 2, 11): an operation's word runs it with the word taken, a reserved word (30_encoding.md R57)
and an exhausted trace are refused by name. -/
def Obligations.StepRunsTheDecodedOperation : Prop :=
  (∀ (s : State) (w : StepWord) (ws : List StepWord) (i : Instr),
    s.events = w :: ws → decode w = .ok i → step s = exec i { s with events := ws }) ∧
  (∀ (s : State) (w : StepWord) (ws : List StepWord),
    s.events = w :: ws → 0x28 ≤ w.toNat → w.toNat ≤ 0x3F → step s = .refused (.reservedStepWord w)) ∧
  ∀ s : State, s.events = [] → step s = .refused .endOfTrace

/-- 30_encoding.md R49: "A trace of an execution is a list of step words". Running the machine over a trace is running its
operations (the model's reading, log 1). -/
def Obligations.TraceRunIsOperationRun : Prop :=
  ∀ (ws rest : List StepWord) (is : List Instr) (s : State), decodeTrace ws = .ok is →
    Host.Core.run Sys2Proof.core ws.length { s with events := ws ++ rest } = runOps is { s with events := rest }

/-! ### Encodings (the spec's own decisions, 92_eei_decisions.md D2, D3, D25, D32) -/

/-- Words written out from 30_encoding.md R53 (95_test_vectors.md E1 to E27). -/
def Obligations.WrittenOutWordsDecode : Prop :=
  decode 0b00000001#8 = .ok (.stHead true) ∧ decode 0b00000011#8 = .ok (.stHead true) ∧
  decode 0b00000110#8 = .ok (.stSel true) ∧ decode 0b00001001#8 = .ok (.nFf true) ∧
  decode 0b00001110#8 = .ok (.nTest true) ∧ decode 0b00010000#8 = .ok (.nWait false) ∧
  decode 0b00010111#8 = .ok .nSel ∧ decode 0b00011000#8 = .ok .snapDi ∧ decode 0b00011100#8 = .ok .snapRd ∧
  decode 0b00100000#8 = .ok .snapEi ∧ decode 0b00100111#8 = .ok .drive ∧
  decode 0b00101000#8 = .error (.reservedPhase 10#4) ∧ decode 0b00111111#8 = .error (.reservedPhase 15#4) ∧
  decode 0b01111111#8 = .ok .tickSvc ∧ decode 0b10000000#8 = .ok .tickReq ∧ decode 0b11111111#8 = .ok .reset

/-- 30_encoding.md R52, R53: every trace of operations survives encoding, and a word decodes to an operation exactly when its
significant bits are that operation's canonical word. -/
def Obligations.DecodeEncodeRoundTrip : Prop :=
  (∀ is : List Instr, decodeTrace (is.map encode) = .ok is) ∧
  ∀ (w : StepWord) (i : Instr), decode w = .ok i ↔ w &&& significantBits i = encode i

/-- 30_encoding.md R53, R57: the decoder agrees with the operation map; its rows are disjoint and with the reserved words cover
all 256 words. -/
def Obligations.OperationMapAgreesWithTheDecoder : Prop :=
  (∀ (w : StepWord) (i : Instr), decode w = .ok i → (opRows.filter (·.selects w)).map (·.mnemonic) = [i.mnemonic]) ∧
  (∀ w : StepWord, (0x28 ≤ w.toNat ∧ w.toNat ≤ 0x3F) ↔ opRows.filter (·.selects w) = []) ∧
  (∀ w : StepWord, StepWord.wellFormed w = true ↔ ∃ i, decode w = .ok i) ∧
  ((List.range 256).filter fun n => StepWord.wellFormed (BitVec.ofNat 8 n)).length = 232

/-! ### The counter -/

/-- 40_tick.md R65: a service adds exactly 1 or exactly `FAST_MULT` modulo `W`; nothing else but `RESET` writes `TC`, a request
least of all. -/
def Obligations.ServiceAddsOneOrFastMult : Prop :=
  (∀ s : State, s.cfg.admissible = true → s.tc.toNat < s.cfg.w → s.tf = true → s.ie = true →
    ∃ t, exec .tickSvc s = .next t ∧
      (s.ffl = false → t.tc.toNat = (s.tc.toNat + 1) % s.cfg.w) ∧
      (s.ffl = true → t.tc.toNat = (s.tc.toNat + s.cfg.fastMult) % s.cfg.w)) ∧
  ∀ (i : Instr) (s t : State), exec i s = .next t → i ≠ .tickSvc → i ≠ .reset → t.tc = s.tc

/-- 40_tick.md R66: the wrap law; `W - 1` is the largest value; with increment 1 the value after `W - 1` is 0 and no value is
skipped; 0 is reached from `W - inc` only, so with `FAST_MULT` it may be passed over (90_conflicts.md C6). -/
def Obligations.ServiceWrapsModuloW : Prop :=
  (∀ s t : State, s.tc.toNat < s.cfg.w → exec .tickSvc s = .next t →
    t.tc.toNat = (s.tc.toNat + (if s.ffl then s.cfg.fastMult else 1)) % s.cfg.w ∧
    t.tc.toNat ≤ s.cfg.w - 1 ∧
    s.tc.toNat + (if s.ffl then s.cfg.fastMult else 1) < 2 * s.cfg.w ∧
    (s.ffl = false → s.tc.toNat = s.cfg.w - 1 → t.tc.toNat = 0) ∧
    (s.ffl = false → s.tc.toNat < s.cfg.w - 1 → t.tc.toNat = s.tc.toNat + 1) ∧
    (t.tc.toNat = 0 ↔ s.tc.toNat + (if s.ffl then s.cfg.fastMult else 1) = s.cfg.w)) ∧
  ∀ s t : State, s.cfg.w = 65536 → s.cfg.fastMult = 64 → s.ffl = true → s.tc.toNat = 65473 →
    exec .tickSvc s = .next t → t.tc.toNat = 1

/-- 40_tick.md R67 (a), (b), (c): `k` ticks add `k` times the increment modulo `W`, and with `FFL = 0` the counter is back where
it started exactly when `W` divides `k`. The spec derives these laws from R66. -/
def Obligations.RepeatedTicksAddUp : Prop :=
  ∀ (k : Nat) (s : State), s.cfg.admissible = true → s.tc.toNat < s.cfg.w → s.ie = true →
    ∃ t, runOps (expand (.ticks k)) s = .next t ∧
      t.tc.toNat = (s.tc.toNat + k * (if s.ffl then s.cfg.fastMult else 1)) % s.cfg.w ∧
      (s.ffl = false → (t.tc = s.tc ↔ s.cfg.w ∣ k)) ∧
      t = { s with tc := t.tc, tf := t.tf }

/-- 60_exceptions.md R107, 40_tick.md R63: services never outnumber requests; under `A_NO_OVERRUN` they are equal up to at most
one pending. That overrun loses a tick is the spec's own decision (D18). -/
def Obligations.ServicesMatchRequests : Prop :=
  ∀ e : Execution, (∀ n, e.op n ≠ .reset) → (e.state 0).tf = false →
    (∀ n, (opsBefore e n).count .tickSvc + (if (e.state n).tf then 1 else 0) ≤ (opsBefore e n).count .tickReq) ∧
    (NoOverrun e → ∀ n,
      (opsBefore e n).count .tickSvc + (if (e.state n).tf then 1 else 0) = (opsBefore e n).count .tickReq)

/-- 70_reset_and_hazards.md R124, R134: under `A_RATE` and `A_NO_OVERRUN`, without fast-forward and before the first wrap, the
seconds read off the counter at the `k`-th request are the whole seconds of real time since the first. `A_RATE` is formalised
as log 10 says. -/
def Obligations.CounterTracksRealTime : Prop :=
  ∀ (e : Execution) (time : Nat → Rat) (start : Rat) (request : Nat → Nat),
    Timetable e time start request → NoOverrun e → (∀ n, e.op n ≠ .reset) → (∀ n, (e.state n).ffl = false) →
    (e.state 0).tc = 0#16 → (e.state 0).tf = false →
    ∀ k, k < (e.state 0).cfg.w →
      (seconds (e.state 0).cfg (e.state (request k)).tc : Int) = ⌊time (request k) - start⌋

/-! ### The snapshot -/

/-- 41_virtual_clock.md R69: `read()` with any number of requests between its steps leaves the counter's value in `SNAP`, `IE`
at 1, a request pending and not lost, and everything else unchanged. That a request made in the window is
kept is the spec's general knowledge (60_exceptions.md R102, G1; log 19). -/
def Obligations.SnapshotReadIsRaceFree : Prop :=
  ∀ (a b : Nat) (s : State), s.cfg.admissible = true → s.ph = .snapDi →
    runOps ([.snapDi] ++ List.replicate a .tickReq ++ [.snapRd] ++ List.replicate b .tickReq ++ [.snapEi]) s =
      .next { s with snap := s.tc, ie := true, tf := s.tf || decide (0 < a + b), ph := .drive }

/-- 20_memory.md R46 (c), 41_virtual_clock.md R71: between `SNAP_DI` and `SNAP_EI` no tick is served, so the counter is the same
throughout. The spec derives it from R70 and R103. -/
def Obligations.CounterFrozenInCriticalSection : Prop :=
  ∀ (is : List Instr) (s t : State), runOps (.snapDi :: is) s = .next t → .reset ∉ is → .snapEi ∉ is →
    .tickSvc ∉ is ∧ t.tc = s.tc ∧ t.ie = false

/-- 41_virtual_clock.md R75, 70_reset_and_hazards.md R127: the pair a pass drives is the source's word for the counter at the
pass's `SNAP_RD`, whatever ticks fall before the `DRIVE`. The spec derives it from R71 and R91.
The pair in one step is D16 (log 7), the history field log 6. -/
def Obligations.PortsShowTheCounterAtTheSnapshot : Prop :=
  ∀ (is : List Instr) (s t : State), Inv s → s.ph = .snapRd → .reset ∉ is → mainOps is = [.snapRd, .snapEi, .drive] →
    runOps is s = .next t →
    t.snap = s.tc ∧ t.hist = s.hist ++ [(portAByte (mux s.cfg s.sel s.tc), portBByte (mux s.cfg s.sel s.tc))] ∧
    (t.pa, t.pb) = (portAByte (mux s.cfg s.sel s.tc), portBByte (mux s.cfg s.sel s.tc))

/-! ### The output multiplexer -/

/-- 44_output_mux.md R92: the multiplexer reads the ROM at the address of R56, and that word is the table entry, which exists. -/
def Obligations.MuxReadsTheTables : Prop :=
  ∀ (c : Cfg) (snap : Word), c.admissible = true →
    (mux c .sched snap = romRead c (BitVec.ofNat 6 (0x00 + snap.toNat / c.div % 16)) ∧
      c.sched.toList[snap.toNat / c.div % 16]? = some (mux c .sched snap)) ∧
    (mux c .allon snap = romRead c 0x22#6 ∧ mux c .allon snap = c.allon) ∧
    (mux c .chase snap = romRead c (BitVec.ofNat 6 (0x10 + snap.toNat / c.rate % c.n)) ∧
      c.selftest[snap.toNat / c.rate % c.n]? = some (mux c .chase snap)) ∧
    (mux c .strobe snap = romRead c (BitVec.ofNat 6 (0x20 + snap.toNat / c.rate % 2)) ∧
      c.knuckle.toList[snap.toNat / c.rate % 2]? = some (mux c .strobe snap))

/-- 44_output_mux.md R97 and 41_virtual_clock.md R74: every index and every address is in bounds; with an admissible
configuration and `SNAP < W` the `mod 16` changes nothing. The spec derives both. -/
def Obligations.IndicesStayInBounds : Prop :=
  (∀ (c : Cfg) (snap : Word), 1 ≤ c.div → 1 ≤ c.rate → 1 ≤ c.n → c.n ≤ 16 →
    hour c snap ≤ 15 ∧ chaseIndex c snap ≤ c.n - 1 ∧ strobeParity c snap ≤ 1 ∧
    (muxAddr c .sched snap).toNat = hour c snap ∧
    (muxAddr c .chase snap).toNat = 0x10 + chaseIndex c snap ∧
    (muxAddr c .strobe snap).toNat = 0x20 + strobeParity c snap ∧
    (muxAddr c .allon snap).toNat = 0x22) ∧
  ∀ (c : Cfg) (snap : Word), c.admissible = true → snap.toNat < c.w → hour c snap = snap.toNat / c.div

/-- 44_output_mux.md R93: the schedule pass drives the entry of the current virtual hour; the document's two worked examples.
The pair in one step is D16 (log 7), the history field log 6. -/
def Obligations.SchedulePassDrivesTheHour : Prop :=
  (∀ s : State, s.cfg.admissible = true → s.ph = .drive → s.sel = .sched →
    ∃ (t : State) (e : Word), exec .drive s = .next t ∧ s.cfg.sched.toList[s.snap.toNat / s.cfg.div % 16]? = some e ∧
      t.pa = e.extractLsb' 0 8 ∧ t.pb = e.extractLsb' 8 8 ∧ t.hist = s.hist ++ [(t.pa, t.pb)]) ∧
  (∀ (c : Cfg) (snap : Word), 1 ≤ c.div → ∃ e : Word, c.sched.toList[hour c snap]? = some e ∧ mux c .sched snap = e) ∧
  ∀ c : Cfg, c.div = 4096 → hour c 0#16 = 0 ∧ mux c .sched 0#16 = c.sched.toList.getD 0 0#16 ∧ hour c 0x5000#16 = 5

/-- 44_output_mux.md R94, 70_reset_and_hazards.md R129: the all-on pass drives `ALLON` whatever `SNAP`; the counter keeps
running in test mode. The spec derives the latter from R64.
The pair in one step is D16 (log 7), the history field log 6. -/
def Obligations.AllOnPassDrivesTheConstant : Prop :=
  (∀ s : State, s.cfg.admissible = true → s.ph = .drive → s.sel = .allon →
    ∃ t, exec .drive s = .next t ∧ t.pa = s.cfg.allon.extractLsb' 0 8 ∧ t.pb = s.cfg.allon.extractLsb' 8 8 ∧
      t.hist = s.hist ++ [(t.pa, t.pb)]) ∧
  ∀ s : State, s.cfg.admissible = true → s.tm = true → s.tf = true → s.ie = true → s.tc.toNat < s.cfg.w →
    ∃ t, exec .tickSvc s = .next t ∧ t.tm = true ∧
      t.tc.toNat = (s.tc.toNat + (if s.ffl then s.cfg.fastMult else 1)) % s.cfg.w

/-- 44_output_mux.md R95: the chase pass drives the entry of `seconds mod N`; between wraps the index has period `N` seconds and
steps by one each second. Across a wrap, for every admissible configuration: the index at `W - 1` is `((W-1) div RATE) mod N` and 0
follows; 0 is its successor modulo `N`, that is no jump, exactly when `N` divides `(W-1) div RATE + 1`, which is `W div RATE` when
`RATE` divides `W` (R95's condition) and `W div RATE + 1` when it does not and the last second is shorter (70_reset_and_hazards.md
R126). That a jump is a step to anything but the successor is the model's reading (log 22). The two worked figures. The pair in one
step is D16 (log 7), the history field log 6. -/
def Obligations.ChaseIndexCyclesBetweenWraps : Prop :=
  (∀ s : State, s.cfg.admissible = true → s.ph = .drive → s.sel = .chase →
    ∃ (t : State) (e : Word), exec .drive s = .next t ∧ s.cfg.selftest[s.snap.toNat / s.cfg.rate % s.cfg.n]? = some e ∧
      t.pa = e.extractLsb' 0 8 ∧ t.pb = e.extractLsb' 8 8 ∧ t.hist = s.hist ++ [(t.pa, t.pb)]) ∧
  (∀ (c : Cfg) (u v : Word), c.admissible = true →
    (v.toNat = u.toNat + c.rate → chaseIndex c v = (chaseIndex c u + 1) % c.n) ∧
    (v.toNat = u.toNat + c.n * c.rate → chaseIndex c v = chaseIndex c u)) ∧
  (∀ c : Cfg, c.admissible = true → chaseIndex c 0#16 = 0 ∧
    chaseIndex c (BitVec.ofNat 16 (c.w - 1)) = (c.w - 1) / c.rate % c.n ∧
    ((chaseIndex c (BitVec.ofNat 16 (c.w - 1)) + 1) % c.n = chaseIndex c 0#16 ↔ c.n ∣ (c.w - 1) / c.rate + 1) ∧
    (c.rate ∣ c.w → ((chaseIndex c (BitVec.ofNat 16 (c.w - 1)) + 1) % c.n = chaseIndex c 0#16 ↔ c.n ∣ c.w / c.rate)) ∧
    (¬c.rate ∣ c.w → ((chaseIndex c (BitVec.ofNat 16 (c.w - 1)) + 1) % c.n = chaseIndex c 0#16 ↔ c.n ∣ c.w / c.rate + 1))) ∧
  chaseIndex p16 0xFFFF#16 = 5 ∧ chaseIndex p57 0xE0FF#16 = 9

/-- 44_output_mux.md R96: the strobe pass drives the pattern of the second's parity; it alternates every second. Across a wrap,
for every admissible configuration: the parity at `W - 1` is `((W-1) div RATE) mod 2` and 0 follows; it alternates exactly when
`W div RATE` is even if `RATE` divides `W` (R96's condition), and exactly when it is odd if not, where the last second is shorter
(70_reset_and_hazards.md R126; log 22). Which pattern is even is the spec's own decision (D22). The pair in one step is D16
(log 7), the history field log 6. -/
def Obligations.StrobeAlternatesEverySecond : Prop :=
  (∀ s : State, s.cfg.admissible = true → s.ph = .drive → s.sel = .strobe →
    ∃ (t : State) (e : Word), exec .drive s = .next t ∧ s.cfg.knuckle.toList[s.snap.toNat / s.cfg.rate % 2]? = some e ∧
      t.pa = e.extractLsb' 0 8 ∧ t.pb = e.extractLsb' 8 8 ∧ t.hist = s.hist ++ [(t.pa, t.pb)]) ∧
  (∀ (c : Cfg) (u v : Word), c.admissible = true → v.toNat = u.toNat + c.rate → strobeParity c v = 1 - strobeParity c u) ∧
  ∀ c : Cfg, c.admissible = true → strobeParity c 0#16 = 0 ∧
    strobeParity c (BitVec.ofNat 16 (c.w - 1)) = (c.w - 1) / c.rate % 2 ∧
    (c.rate ∣ c.w → (strobeParity c (BitVec.ofNat 16 (c.w - 1)) = 1 ↔ 2 ∣ c.w / c.rate)) ∧
    (¬c.rate ∣ c.w → (strobeParity c (BitVec.ofNat 16 (c.w - 1)) = 1 ↔ ¬2 ∣ c.w / c.rate))

/-! ### The tick interrupt -/

/-- 60_exceptions.md R100: no operation can trap, fault or abort; every operation is total where it is enabled; the list of
exception causes is empty. -/
def Obligations.NoOperationFaults : Prop :=
  (∀ (i : Instr) (s : State) (r : Fault), exec i s ≠ .fault r) ∧
  (∀ (i : Instr) (s : State), s.cfg.admissible = true → enabled i s = true → ∃ t, exec i s = .next t) ∧
  IsEmpty Fault

/-- 60_exceptions.md R103: the enabling condition, the writers of `IE`, its value after `RESET`, and that the tick is masked only
inside the snapshot's critical section. -/
def Obligations.TickMaskedOnlyInTheSnapshot : Prop :=
  (∀ s : State, s.cfg.admissible = true → ((∃ t, exec .tickSvc s = .next t) ↔ s.tf = true ∧ s.ie = true)) ∧
  (∀ s t : State, exec .snapDi s = .next t → t.ie = false) ∧
  (∀ s t : State, exec .snapEi s = .next t → t.ie = true) ∧
  (∀ s t : State, exec .reset s = .next t → t.ie = true) ∧
  (∀ (i : Instr) (s t : State), exec i s = .next t → i ≠ .snapDi → i ≠ .snapEi → i ≠ .reset → t.ie = s.ie) ∧
  ∀ s : State, Inv s → s.tf = true → ((¬∃ t, exec .tickSvc s = .next t) ↔ s.ph = .snapRd ∨ s.ph = .snapEi)

/-- 60_exceptions.md R105: taking the tick changes only `TF` and `TC`, so the main sequencer resumes exactly where it was: the
same main operations have a step before and after. -/
def Obligations.TickEntrySavesNothing : Prop :=
  ∀ s t : State, exec .tickSvc s = .next t →
    t = { s with tf := false, tc := t.tc } ∧
    ∀ i : Instr, i.agent = .main → ((∃ u, exec i t = .next u) ↔ ∃ u, exec i s = .next u)

/-- 60_exceptions.md R106: a service always clears `TF`, cannot be served again, and a request that follows it leads to a new
service. The refusal's name is the model's choice (log 3). -/
def Obligations.ServiceNeverNests : Prop :=
  ∀ s t : State, exec .tickSvc s = .next t →
    t.tf = false ∧ exec .tickSvc t = .refused (.notEnabled .tickSvc) ∧
    ∃ u v, exec .tickReq t = .next u ∧ u.tf = true ∧ exec .tickSvc u = .next v ∧ v.tf = false

/-! ### The sequencer -/

/-- 43_mode_sequencer.md R82: the sequencer moves along these edges and no others, each edge is taken by some operation, ticks
leave `PH` alone and `RESET` leads to `ST_HEAD`. The split into phases is the spec's own decision (D3). -/
def Obligations.PhaseGraphHasTheseEdgesOnly : Prop :=
  let edges : List (Phase × Phase) :=
    [(.stHead, .stSel), (.stHead, .nFf), (.stSel, .snapDi), (.snapDi, .snapRd), (.snapRd, .snapEi), (.snapEi, .drive),
     (.drive, .stHead), (.drive, .nFf), (.nFf, .nTest), (.nTest, .nSel), (.nTest, .nWait), (.nWait, .nWait),
     (.nWait, .nSel), (.nSel, .snapDi), (.nSel, .drive)]
  (∀ (i : Instr) (s t : State), exec i s = .next t →
    (i.agent = .main → (s.ph, t.ph) ∈ edges) ∧ (i = .tickSvc ∨ i = .tickReq → t.ph = s.ph) ∧ (i = .reset → t.ph = .stHead)) ∧
  ∀ p q : Phase, (p, q) ∈ edges → ∃ (i : Instr) (s t : State), i.agent = .main ∧ s.ph = p ∧ exec i s = .next t ∧ t.ph = q

/-- 00_scope.md R9, 43_mode_sequencer.md R87: for every state and both levels of both buttons exactly one main operation has a
step, and `TICK_REQ` and `RESET` always have one. -/
def Obligations.OneMainOperationForEveryInput : Prop :=
  ∀ (s : State) (test ff : Bool), s.cfg.admissible = true →
    (∃! i : Instr, i.agent = .main ∧ (∀ v, i.sample = some (.test, v) → v = test) ∧
      (∀ v, i.sample = some (.ff, v) → v = ff) ∧ ∃ t, exec i s = .next t) ∧
    (∃ t, exec .tickReq s = .next t) ∧ ∃ t, exec .reset s = .next t

/-- 10_state.md R16, the access matrix's writers, over all operations; ROM and configuration are never written (20_memory.md
R34). This is the frame of every operation.
The fields `hist`, `events` and `cfg` are the model's (log 6, 1, 4). -/
def Obligations.RegistersHaveTheirOnlyWriters : Prop :=
  ∀ (i : Instr) (s t : State), exec i s = .next t →
    (t.tc ≠ s.tc → i = .tickSvc ∨ i = .reset) ∧
    (t.snap ≠ s.snap → i = .snapRd ∨ i = .reset) ∧
    (t.ffl ≠ s.ffl → (∃ f, i = .nFf f) ∨ i = .reset) ∧
    (t.tm ≠ s.tm → (∃ b, i = .nTest b) ∨ i = .reset) ∧
    (t.ie ≠ s.ie → i = .snapDi ∨ i = .snapEi ∨ i = .reset) ∧
    (t.tf ≠ s.tf → i = .tickReq ∨ i = .tickSvc ∨ i = .reset) ∧
    (t.sel ≠ s.sel → (∃ b, i = .stSel b) ∨ i = .nSel ∨ i = .reset) ∧
    (t.ph ≠ s.ph → i.agent = .main ∨ i = .reset) ∧
    ((t.pa, t.pb) ≠ (s.pa, s.pb) → i = .drive ∨ i = .reset) ∧
    (t.hist ≠ s.hist → i = .drive) ∧
    t.events = s.events ∧ t.cfg = s.cfg ∧ ∀ a, romRead t.cfg a = romRead s.cfg a

/-- 60_exceptions.md R109: the main context reads `TC` only through `SNAP_RD`, and the tick context sees nothing of the main
context but `FFL` (and `IE`, which gates it). -/
def Obligations.ContextsShareOnlyTheSharedRegisters : Prop :=
  (∀ (i : Instr) (s t : State) (v : Word), i.agent = .main → i ≠ .snapRd → exec i s = .next t →
    exec i { s with tc := v } = .next { t with tc := v }) ∧
  ∀ (s t : State) (snap : Word) (tm : Bool) (sel : Sel) (ph : Phase) (pa pb : Byte), exec .tickSvc s = .next t →
    exec .tickSvc { s with snap := snap, tm := tm, sel := sel, ph := ph, pa := pa, pb := pb } =
      .next { t with snap := snap, tm := tm, sel := sel, ph := ph, pa := pa, pb := pb }

/-- 44_output_mux.md R99, 20_memory.md R41: the latches and the history change only at `DRIVE` (the latches also at `RESET`), and
no operation reads the latches back. After `RESET` the latches may be anything (10_state.md R25), so there every register but `PA`
and `PB` is compared; of them and of the count of draws (log 5) nothing is said. The history field is log 6. -/
def Obligations.OutputsHoldBetweenDrives : Prop :=
  ∀ (i : Instr) (s t : State) (a b : Byte), exec i s = .next t →
    (i ≠ .drive → i ≠ .reset →
      t.pa = s.pa ∧ t.pb = s.pb ∧ t.hist = s.hist ∧
      exec i { s with pa := a, pb := b } = .next { t with pa := a, pb := b }) ∧
    (i = .drive → exec i { s with pa := a, pb := b } = .next t) ∧
    (i = .reset → t.hist = s.hist ∧
      ∃ u, exec i { s with pa := a, pb := b } = .next u ∧
        (u.tc, u.snap, u.ffl, u.tm, u.ie, u.tf) = (t.tc, t.snap, t.ffl, t.tm, t.ie, t.tf) ∧
        (u.sel, u.ph, u.hist, u.events, u.cfg) = (t.sel, t.ph, t.hist, t.events, t.cfg))

/-- 43_mode_sequencer.md R88: once an `ST_HEAD f=0` step has been taken, self-test stays inactive until the next `RESET`, over
every interleaving; so `PH` is never `ST_HEAD` or `ST_SEL` again and every later `DRIVE` has `SEL[1] = 0`. The spec derives it
from R82. -/
def Obligations.SelfTestIsOneWay : Prop :=
  (∀ s t : State, exec (.stHead false) s = .next t → stActive t = false) ∧
  ∀ (is : List Instr) (s t : State), stActive s = false → .reset ∉ is → runOps is s = .next t →
    stActive t = false ∧ t.ph ≠ .stHead ∧ t.ph ≠ .stSel ∧ (t.ph = .drive → t.sel = .sched ∨ t.sel = .allon)

/-- 43_mode_sequencer.md R89, 70_reset_and_hazards.md R116, R122: from `RESET` until the first `N_FF`, over every interleaving,
`FFL` is 0 and the counter has advanced by exactly 1 per service. The spec derives it from R29 and R85. -/
def Obligations.FastForwardIsDeadBeforeTheNormalLoop : Prop :=
  ∀ (is : List Instr) (r s t : State), exec .reset r = .next s → (∀ f, .nFf f ∉ is) → .reset ∉ is → runOps is s = .next t →
    t.ffl = false ∧ t.tc.toNat = is.count .tickSvc % t.cfg.w

/-- 43_mode_sequencer.md R88, 95_test_vectors.md S9: "never the production schedule, until FF is released". From `RESET`, as
long as no `ST_HEAD` samples FF released, self-test is active, test mode is off, and every pair written is an entry of the
self-test table or a strobe pattern.
The history field is log 6. -/
def Obligations.NoScheduleBeforeFfIsReleased : Prop :=
  ∀ (is : List Instr) (r s t : State), exec .reset r = .next s → .stHead false ∉ is → runOps is s = .next t →
    stActive t = true ∧ t.ffl = false ∧ t.tm = false ∧
    ∀ ev ∈ t.hist, ev ∈ s.hist ∨ ∃ e ∈ t.cfg.selftest ++ t.cfg.knuckle.toList, ev = (e.extractLsb' 0 8, e.extractLsb' 8 8)

/-- 43_mode_sequencer.md R90: every pass of either loop ends with exactly one `DRIVE`, over every interleaving: passes begun (an
`ST_HEAD f=1` or an `N_FF`) and drives differ by the pass in progress, and every drive is one event. Derived from R82.
The history field is log 6. -/
def Obligations.EveryPassDrivesExactlyOnce : Prop :=
  ∀ (is : List Instr) (s t : State), .reset ∉ is → runOps is s = .next t →
    is.count (.stHead true) + is.count (.nFf true) + is.count (.nFf false) +
        (if s.ph = .stHead ∨ s.ph = .nFf then 0 else 1) =
      is.count .drive + (if t.ph = .stHead ∨ t.ph = .nFf then 0 else 1) ∧
    t.hist.length = s.hist.length + is.count .drive

/-- 10_state.md R26 (e), (f), R22: in a snapshot or drive phase, `SEL` was written since the last loop head, and if the pass
resolved to all-on it took no snapshot. The spec derives it. -/
def Obligations.SelectIsWrittenInTheSamePass : Prop :=
  ∀ (is : List Instr) (s t : State), s.ph = .stHead ∨ s.ph = .nFf → .reset ∉ is → runOps is s = .next t →
    resolvedPhase t.ph = true →
    ∃ (before after : List Instr) (i : Instr), is = before ++ i :: after ∧ ((∃ b, i = .stSel b) ∨ i = .nSel) ∧
      (∀ j ∈ after, j.phase ≠ some .stHead ∧ j.phase ≠ some .nFf) ∧
      (t.ph = .drive → t.sel = .allon → .snapDi ∉ after ∧ .snapRd ∉ after ∧ .snapEi ∉ after)

/-- 30_encoding.md R61 with 43_mode_sequencer.md R82: the pseudo-operations as whole passes. A schedule pass drives the entry of
the hour of the counter, an all-on pass the constant, a self-test pass the chase or strobe word; a press toggles `TM` once.
The pair in one step is D16 (log 7), the history field log 6. -/
def Obligations.PassesDriveTheirSource : Prop :=
  (∀ (f : Bool) (s : State), s.cfg.admissible = true → s.ph = .nFf → s.tm = false →
    ∃ (t : State) (e : Word), runOps (expand (.passSched f)) s = .next t ∧
      s.cfg.sched.toList[s.tc.toNat / s.cfg.div % 16]? = some e ∧
      t = { s with snap := s.tc, ffl := f, ie := true, sel := .sched, pa := e.extractLsb' 0 8, pb := e.extractLsb' 8 8,
                   hist := s.hist ++ [(e.extractLsb' 0 8, e.extractLsb' 8 8)] }) ∧
  (∀ (f : Bool) (s : State), s.cfg.admissible = true → s.ph = .nFf → s.tm = true →
    ∃ t, runOps (expand (.passAllon f)) s = .next t ∧
      t = { s with ffl := f, sel := .allon, pa := s.cfg.allon.extractLsb' 0 8, pb := s.cfg.allon.extractLsb' 8 8,
                   hist := s.hist ++ [(s.cfg.allon.extractLsb' 0 8, s.cfg.allon.extractLsb' 8 8)] }) ∧
  (∀ (b : Bool) (s : State), s.cfg.admissible = true → s.ph = .stHead →
    ∃ (t : State) (e : Word), runOps (expand (.passSt b)) s = .next t ∧
      (if b then s.cfg.selftest[s.tc.toNat / s.cfg.rate % s.cfg.n]? else s.cfg.knuckle.toList[s.tc.toNat / s.cfg.rate % 2]?) =
        some e ∧
      t = { s with snap := s.tc, ie := true, sel := if b then .chase else .strobe,
                   pa := e.extractLsb' 0 8, pb := e.extractLsb' 8 8,
                   hist := s.hist ++ [(e.extractLsb' 0 8, e.extractLsb' 8 8)] }) ∧
  (∀ (f : Bool) (k : Nat) (s : State), s.cfg.admissible = true → s.ph = .nFf →
    runOps (expand (.press f k)) s = .next { s with ffl := f, tm := !s.tm, ph := .nSel })

/-! ### The debounce -/

/-- 42_input_debounce.md R79: over every interleaving with ticks, a run of samples 1, 1, ..., 1, 0 complements `TM` exactly once
whatever its length, writes no port, and the first `DRIVE` after the release uses the new `TM`. The spec derives it.
The history field is log 6. -/
def Obligations.OneToggleWhateverTheHold : Prop :=
  ∀ (k : Nat) (is : List Instr) (s t : State), s.ph = .nTest → .reset ∉ is → runOps is s = .next t →
    (mainOps is = .nTest true :: List.replicate k (.nWait true) ++ [.nWait false] →
      t.tm = !s.tm ∧ t.ph = .nSel ∧ t.ffl = s.ffl ∧ t.pa = s.pa ∧ t.pb = s.pb ∧ t.hist = s.hist) ∧
    (mainOps is = .nTest true :: List.replicate k (.nWait true) ++ [.nWait false, .nSel, .drive] →
      s.tm = false ∧ t.tm = true ∧ t.hist = s.hist ++ [(portAByte t.cfg.allon, portBByte t.cfg.allon)]) ∧
    (mainOps is = .nTest true :: List.replicate k (.nWait true) ++ [.nWait false, .nSel, .snapDi, .snapRd, .snapEi, .drive] →
      s.tm = true ∧ t.tm = false ∧
      t.hist = s.hist ++ [(portAByte (mux t.cfg .sched t.snap), portBByte (mux t.cfg .sched t.snap))])

/-- 42_input_debounce.md R80, 70_reset_and_hazards.md R134: after power-on, under `A_CLEAN_PRESS` and `A_NO_POWER_CYCLE`, every
physical press toggles test mode exactly once. `A_CLEAN_PRESS` is formalised as log 10 says. -/
def Obligations.CleanPressTogglesExactlyOnce : Prop :=
  ∀ (e : Execution) (press : Nat → Option Nat), e.op 0 = .reset → NoPowerCycle e → CleanPress e press →
    (∀ n, 0 < n → ((e.state (n + 1)).tm ≠ (e.state n).tm ↔ e.op n = .nTest true)) ∧
    ∀ p, (∃ n, press n = some p) → ∃! n, press n = some p ∧ e.op n = .nTest true

/-- 70_reset_and_hazards.md R121: while the sequencer waits in `N_WAIT`, over every interleaving, nothing of the main context
changes but the counter runs on, with the increment of the `FFL` sampled before the wait. The spec derives it from R78. -/
def Obligations.BusyWaitFreezesTheMainContext : Prop :=
  ∀ (is : List Instr) (s t : State), s.tc.toNat < s.cfg.w → s.ph = .nWait → .reset ∉ is → .nWait false ∉ is →
    runOps is s = .next t →
    t = { s with tc := t.tc, tf := t.tf } ∧
    t.tc.toNat = (s.tc.toNat + is.count .tickSvc * (if s.ffl then s.cfg.fastMult else 1)) % s.cfg.w

/-! ### Invariants and whole executions -/

/-- The reset state meets the invariant (10_state.md R26, R29). `Inv` strengthens the spec's invariants (log 18). -/
def Obligations.ResetStateMeetsTheInvariant : Prop := Inv State.reset

/-- 10_state.md R26: the invariant holds after every step from a state in which it holds. The spec derives its invariants; `Inv`
strengthens them so that every step keeps the whole (log 18). -/
def Obligations.EveryStepKeepsTheInvariant : Prop :=
  ∀ s t : State, Inv s → step s = .next t → Inv t

/-- 70_reset_and_hazards.md R133: with `F_TICK` as weak fairness ("if `TICK_SVC` stays enabled it is eventually taken") and
`F_MAIN`, every pending tick is eventually served, or discarded by a `RESET` (R115). Weak fairness does not give this: the snapshot
masks the tick once a pass, so an execution can leave a tick pending for ever without `TICK_SVC` ever staying enabled (log 9). The
only difference from the next statement is the fairness of the tick unit. -/
def Obligations.WeakFairnessServesEveryTick : Prop :=
  ∀ e : Execution, Inv (e.state 0) → FMain e → FTick e →
    ∀ n, (e.state n).tf = true → ∃ m, n ≤ m ∧ (e.op m = .tickSvc ∨ e.op m = .reset)

/-- 70_reset_and_hazards.md R133 with strong fairness of the tick unit (the model's own, log 9): every pending tick is
eventually served, or discarded by a `RESET`. -/
def Obligations.StrongFairnessServesEveryTick : Prop :=
  ∀ e : Execution, Inv (e.state 0) → FMain e → FTickStrong e →
    ∀ n, (e.state n).tf = true → ∃ m, n ≤ m ∧ (e.op m = .tickSvc ∨ e.op m = .reset)

/-- 70_reset_and_hazards.md R116, R134: under `A_FF_BOOT` self-test is entered exactly when FF is held at power-up.
`A_FF_BOOT` is formalised as log 10 says. -/
def Obligations.FfAtPowerUpDecidesSelfTest : Prop :=
  ∀ (e : Execution) (pins : PinLevels e), FfBoot e pins → ∀ i j, FirstHeadAfterReset e i j →
    ((e.state (j + 1)).ph = .stSel ↔ pins.ff i = true) ∧ ((e.state (j + 1)).ph = .nFf ↔ pins.ff i = false)

/-- 10_state.md R24, R27, R28 (views the spec itself defines, D3, D28): `CSR` bit by bit; self-test active is one of the three
self-test modes; and outside self-test the mode view is TESTMODE_ON exactly when `TM = 1`. -/
def Obligations.ViewsShowTheControlState : Prop :=
  (∀ s : State, (csr s).extractLsb' 0 4 = s.ph.code ∧ (csr s).extractLsb' 4 2 = selCode s.sel ∧
    (csr s).getLsbD 6 = s.tm ∧ (csr s).getLsbD 7 = s.ffl ∧ (csr s).getLsbD 8 = s.tf ∧ (csr s).getLsbD 9 = s.ie ∧
    (csr s).extractLsb' 10 6 = 0#6) ∧
  (∀ s : State, stActive s = true ↔ modeCode (mode s.ph s.sel s.tm) ≤ 2) ∧
  ∀ s : State, Inv s → stActive s = false → (mode s.ph s.sel s.tm = .testmodeOn ↔ s.tm = true)
end

