-- ==== Sys2Proof/Laws/State.lean ====
section
/-! SUPPORT. One lemma per field per named update of the state, true by rfl. -/

namespace Sys2Proof.Machine.State

variable (s : State)

@[simp] theorem setFfl_tc (v : Bool) : (s.setFfl v).tc = s.tc := rfl
@[simp] theorem setFfl_snap (v : Bool) : (s.setFfl v).snap = s.snap := rfl
@[simp] theorem setFfl_ffl (v : Bool) : (s.setFfl v).ffl = v := rfl
@[simp] theorem setFfl_tm (v : Bool) : (s.setFfl v).tm = s.tm := rfl
@[simp] theorem setFfl_ie (v : Bool) : (s.setFfl v).ie = s.ie := rfl
@[simp] theorem setFfl_tf (v : Bool) : (s.setFfl v).tf = s.tf := rfl
@[simp] theorem setFfl_sel (v : Bool) : (s.setFfl v).sel = s.sel := rfl
@[simp] theorem setFfl_ph (v : Bool) : (s.setFfl v).ph = s.ph := rfl
@[simp] theorem setFfl_pa (v : Bool) : (s.setFfl v).pa = s.pa := rfl
@[simp] theorem setFfl_pb (v : Bool) : (s.setFfl v).pb = s.pb := rfl
@[simp] theorem setFfl_hist (v : Bool) : (s.setFfl v).hist = s.hist := rfl
@[simp] theorem setFfl_events (v : Bool) : (s.setFfl v).events = s.events := rfl
@[simp] theorem setFfl_cfg (v : Bool) : (s.setFfl v).cfg = s.cfg := rfl
@[simp] theorem setFfl_draws (v : Bool) : (s.setFfl v).draws = s.draws := rfl

@[simp] theorem toggleTm_tc : (s.toggleTm).tc = s.tc := rfl
@[simp] theorem toggleTm_snap : (s.toggleTm).snap = s.snap := rfl
@[simp] theorem toggleTm_ffl : (s.toggleTm).ffl = s.ffl := rfl
@[simp] theorem toggleTm_tm : (s.toggleTm).tm = !s.tm := rfl
@[simp] theorem toggleTm_ie : (s.toggleTm).ie = s.ie := rfl
@[simp] theorem toggleTm_tf : (s.toggleTm).tf = s.tf := rfl
@[simp] theorem toggleTm_sel : (s.toggleTm).sel = s.sel := rfl
@[simp] theorem toggleTm_ph : (s.toggleTm).ph = s.ph := rfl
@[simp] theorem toggleTm_pa : (s.toggleTm).pa = s.pa := rfl
@[simp] theorem toggleTm_pb : (s.toggleTm).pb = s.pb := rfl
@[simp] theorem toggleTm_hist : (s.toggleTm).hist = s.hist := rfl
@[simp] theorem toggleTm_events : (s.toggleTm).events = s.events := rfl
@[simp] theorem toggleTm_cfg : (s.toggleTm).cfg = s.cfg := rfl
@[simp] theorem toggleTm_draws : (s.toggleTm).draws = s.draws := rfl

@[simp] theorem setIe_tc (v : Bool) : (s.setIe v).tc = s.tc := rfl
@[simp] theorem setIe_snap (v : Bool) : (s.setIe v).snap = s.snap := rfl
@[simp] theorem setIe_ffl (v : Bool) : (s.setIe v).ffl = s.ffl := rfl
@[simp] theorem setIe_tm (v : Bool) : (s.setIe v).tm = s.tm := rfl
@[simp] theorem setIe_ie (v : Bool) : (s.setIe v).ie = v := rfl
@[simp] theorem setIe_tf (v : Bool) : (s.setIe v).tf = s.tf := rfl
@[simp] theorem setIe_sel (v : Bool) : (s.setIe v).sel = s.sel := rfl
@[simp] theorem setIe_ph (v : Bool) : (s.setIe v).ph = s.ph := rfl
@[simp] theorem setIe_pa (v : Bool) : (s.setIe v).pa = s.pa := rfl
@[simp] theorem setIe_pb (v : Bool) : (s.setIe v).pb = s.pb := rfl
@[simp] theorem setIe_hist (v : Bool) : (s.setIe v).hist = s.hist := rfl
@[simp] theorem setIe_events (v : Bool) : (s.setIe v).events = s.events := rfl
@[simp] theorem setIe_cfg (v : Bool) : (s.setIe v).cfg = s.cfg := rfl
@[simp] theorem setIe_draws (v : Bool) : (s.setIe v).draws = s.draws := rfl

@[simp] theorem setTf_tc (v : Bool) : (s.setTf v).tc = s.tc := rfl
@[simp] theorem setTf_snap (v : Bool) : (s.setTf v).snap = s.snap := rfl
@[simp] theorem setTf_ffl (v : Bool) : (s.setTf v).ffl = s.ffl := rfl
@[simp] theorem setTf_tm (v : Bool) : (s.setTf v).tm = s.tm := rfl
@[simp] theorem setTf_ie (v : Bool) : (s.setTf v).ie = s.ie := rfl
@[simp] theorem setTf_tf (v : Bool) : (s.setTf v).tf = v := rfl
@[simp] theorem setTf_sel (v : Bool) : (s.setTf v).sel = s.sel := rfl
@[simp] theorem setTf_ph (v : Bool) : (s.setTf v).ph = s.ph := rfl
@[simp] theorem setTf_pa (v : Bool) : (s.setTf v).pa = s.pa := rfl
@[simp] theorem setTf_pb (v : Bool) : (s.setTf v).pb = s.pb := rfl
@[simp] theorem setTf_hist (v : Bool) : (s.setTf v).hist = s.hist := rfl
@[simp] theorem setTf_events (v : Bool) : (s.setTf v).events = s.events := rfl
@[simp] theorem setTf_cfg (v : Bool) : (s.setTf v).cfg = s.cfg := rfl
@[simp] theorem setTf_draws (v : Bool) : (s.setTf v).draws = s.draws := rfl

@[simp] theorem setTc_tc (v : Word) : (s.setTc v).tc = v := rfl
@[simp] theorem setTc_snap (v : Word) : (s.setTc v).snap = s.snap := rfl
@[simp] theorem setTc_ffl (v : Word) : (s.setTc v).ffl = s.ffl := rfl
@[simp] theorem setTc_tm (v : Word) : (s.setTc v).tm = s.tm := rfl
@[simp] theorem setTc_ie (v : Word) : (s.setTc v).ie = s.ie := rfl
@[simp] theorem setTc_tf (v : Word) : (s.setTc v).tf = s.tf := rfl
@[simp] theorem setTc_sel (v : Word) : (s.setTc v).sel = s.sel := rfl
@[simp] theorem setTc_ph (v : Word) : (s.setTc v).ph = s.ph := rfl
@[simp] theorem setTc_pa (v : Word) : (s.setTc v).pa = s.pa := rfl
@[simp] theorem setTc_pb (v : Word) : (s.setTc v).pb = s.pb := rfl
@[simp] theorem setTc_hist (v : Word) : (s.setTc v).hist = s.hist := rfl
@[simp] theorem setTc_events (v : Word) : (s.setTc v).events = s.events := rfl
@[simp] theorem setTc_cfg (v : Word) : (s.setTc v).cfg = s.cfg := rfl
@[simp] theorem setTc_draws (v : Word) : (s.setTc v).draws = s.draws := rfl

@[simp] theorem setSnap_tc (v : Word) : (s.setSnap v).tc = s.tc := rfl
@[simp] theorem setSnap_snap (v : Word) : (s.setSnap v).snap = v := rfl
@[simp] theorem setSnap_ffl (v : Word) : (s.setSnap v).ffl = s.ffl := rfl
@[simp] theorem setSnap_tm (v : Word) : (s.setSnap v).tm = s.tm := rfl
@[simp] theorem setSnap_ie (v : Word) : (s.setSnap v).ie = s.ie := rfl
@[simp] theorem setSnap_tf (v : Word) : (s.setSnap v).tf = s.tf := rfl
@[simp] theorem setSnap_sel (v : Word) : (s.setSnap v).sel = s.sel := rfl
@[simp] theorem setSnap_ph (v : Word) : (s.setSnap v).ph = s.ph := rfl
@[simp] theorem setSnap_pa (v : Word) : (s.setSnap v).pa = s.pa := rfl
@[simp] theorem setSnap_pb (v : Word) : (s.setSnap v).pb = s.pb := rfl
@[simp] theorem setSnap_hist (v : Word) : (s.setSnap v).hist = s.hist := rfl
@[simp] theorem setSnap_events (v : Word) : (s.setSnap v).events = s.events := rfl
@[simp] theorem setSnap_cfg (v : Word) : (s.setSnap v).cfg = s.cfg := rfl
@[simp] theorem setSnap_draws (v : Word) : (s.setSnap v).draws = s.draws := rfl

@[simp] theorem setSel_tc (v : Sel) : (s.setSel v).tc = s.tc := rfl
@[simp] theorem setSel_snap (v : Sel) : (s.setSel v).snap = s.snap := rfl
@[simp] theorem setSel_ffl (v : Sel) : (s.setSel v).ffl = s.ffl := rfl
@[simp] theorem setSel_tm (v : Sel) : (s.setSel v).tm = s.tm := rfl
@[simp] theorem setSel_ie (v : Sel) : (s.setSel v).ie = s.ie := rfl
@[simp] theorem setSel_tf (v : Sel) : (s.setSel v).tf = s.tf := rfl
@[simp] theorem setSel_sel (v : Sel) : (s.setSel v).sel = v := rfl
@[simp] theorem setSel_ph (v : Sel) : (s.setSel v).ph = s.ph := rfl
@[simp] theorem setSel_pa (v : Sel) : (s.setSel v).pa = s.pa := rfl
@[simp] theorem setSel_pb (v : Sel) : (s.setSel v).pb = s.pb := rfl
@[simp] theorem setSel_hist (v : Sel) : (s.setSel v).hist = s.hist := rfl
@[simp] theorem setSel_events (v : Sel) : (s.setSel v).events = s.events := rfl
@[simp] theorem setSel_cfg (v : Sel) : (s.setSel v).cfg = s.cfg := rfl
@[simp] theorem setSel_draws (v : Sel) : (s.setSel v).draws = s.draws := rfl

@[simp] theorem setPh_tc (v : Phase) : (s.setPh v).tc = s.tc := rfl
@[simp] theorem setPh_snap (v : Phase) : (s.setPh v).snap = s.snap := rfl
@[simp] theorem setPh_ffl (v : Phase) : (s.setPh v).ffl = s.ffl := rfl
@[simp] theorem setPh_tm (v : Phase) : (s.setPh v).tm = s.tm := rfl
@[simp] theorem setPh_ie (v : Phase) : (s.setPh v).ie = s.ie := rfl
@[simp] theorem setPh_tf (v : Phase) : (s.setPh v).tf = s.tf := rfl
@[simp] theorem setPh_sel (v : Phase) : (s.setPh v).sel = s.sel := rfl
@[simp] theorem setPh_ph (v : Phase) : (s.setPh v).ph = v := rfl
@[simp] theorem setPh_pa (v : Phase) : (s.setPh v).pa = s.pa := rfl
@[simp] theorem setPh_pb (v : Phase) : (s.setPh v).pb = s.pb := rfl
@[simp] theorem setPh_hist (v : Phase) : (s.setPh v).hist = s.hist := rfl
@[simp] theorem setPh_events (v : Phase) : (s.setPh v).events = s.events := rfl
@[simp] theorem setPh_cfg (v : Phase) : (s.setPh v).cfg = s.cfg := rfl
@[simp] theorem setPh_draws (v : Phase) : (s.setPh v).draws = s.draws := rfl

@[simp] theorem portWrite_tc (a b : Byte) : (s.portWrite a b).tc = s.tc := rfl
@[simp] theorem portWrite_snap (a b : Byte) : (s.portWrite a b).snap = s.snap := rfl
@[simp] theorem portWrite_ffl (a b : Byte) : (s.portWrite a b).ffl = s.ffl := rfl
@[simp] theorem portWrite_tm (a b : Byte) : (s.portWrite a b).tm = s.tm := rfl
@[simp] theorem portWrite_ie (a b : Byte) : (s.portWrite a b).ie = s.ie := rfl
@[simp] theorem portWrite_tf (a b : Byte) : (s.portWrite a b).tf = s.tf := rfl
@[simp] theorem portWrite_sel (a b : Byte) : (s.portWrite a b).sel = s.sel := rfl
@[simp] theorem portWrite_ph (a b : Byte) : (s.portWrite a b).ph = s.ph := rfl
@[simp] theorem portWrite_pa (a b : Byte) : (s.portWrite a b).pa = a := rfl
@[simp] theorem portWrite_pb (a b : Byte) : (s.portWrite a b).pb = b := rfl
@[simp] theorem portWrite_hist (a b : Byte) : (s.portWrite a b).hist = s.hist ++ [(a, b)] := rfl
@[simp] theorem portWrite_events (a b : Byte) : (s.portWrite a b).events = s.events := rfl
@[simp] theorem portWrite_cfg (a b : Byte) : (s.portWrite a b).cfg = s.cfg := rfl
@[simp] theorem portWrite_draws (a b : Byte) : (s.portWrite a b).draws = s.draws := rfl

@[simp] theorem setEvents_tc (v : List StepWord) : (s.setEvents v).tc = s.tc := rfl
@[simp] theorem setEvents_snap (v : List StepWord) : (s.setEvents v).snap = s.snap := rfl
@[simp] theorem setEvents_ffl (v : List StepWord) : (s.setEvents v).ffl = s.ffl := rfl
@[simp] theorem setEvents_tm (v : List StepWord) : (s.setEvents v).tm = s.tm := rfl
@[simp] theorem setEvents_ie (v : List StepWord) : (s.setEvents v).ie = s.ie := rfl
@[simp] theorem setEvents_tf (v : List StepWord) : (s.setEvents v).tf = s.tf := rfl
@[simp] theorem setEvents_sel (v : List StepWord) : (s.setEvents v).sel = s.sel := rfl
@[simp] theorem setEvents_ph (v : List StepWord) : (s.setEvents v).ph = s.ph := rfl
@[simp] theorem setEvents_pa (v : List StepWord) : (s.setEvents v).pa = s.pa := rfl
@[simp] theorem setEvents_pb (v : List StepWord) : (s.setEvents v).pb = s.pb := rfl
@[simp] theorem setEvents_hist (v : List StepWord) : (s.setEvents v).hist = s.hist := rfl
@[simp] theorem setEvents_events (v : List StepWord) : (s.setEvents v).events = v := rfl
@[simp] theorem setEvents_cfg (v : List StepWord) : (s.setEvents v).cfg = s.cfg := rfl
@[simp] theorem setEvents_draws (v : List StepWord) : (s.setEvents v).draws = s.draws := rfl

end Sys2Proof.Machine.State
end

