-- ==== Sys2Proof/Laws/Ops.lean ====
section
/-! SUPPORT. One lemma for each shared operation that says everything it can do: the frame of an operation, the meanings as
one effect function, the counter, the ROM, the fetch, and running lists of operations. -/

namespace Sys2Proof.Machine

/-- The check of a configuration, condition by condition (00_scope.md R5). -/
theorem admissible_iff {c : Cfg} : c.admissible = true ↔
    c.cw = 16 ∧ (1 ≤ c.w ∧ c.w ≤ 65536) ∧ (1 ≤ c.fastMult ∧ c.fastMult ≤ c.w) ∧ (1 ≤ c.div ∧ 1 ≤ c.rate) ∧
    c.w = 16 * c.div ∧ (1 ≤ c.n ∧ c.n ≤ 16) := by
  simp only [Cfg.admissible, Bool.and_eq_true, decide_eq_true_eq, and_assoc]
  constructor
  · rintro ⟨h, rest⟩; rw [h] at rest; exact ⟨h, rest⟩
  · rintro ⟨h, rest⟩; rw [h]; exact ⟨rfl, rest⟩

/-! ### The frame every operation runs in -/

/-- An operation takes a next state exactly when the configuration is admissible and it is enabled; the state is then its
effect. -/
theorem perform_next_iff {i : Instr} {eff : State → State} {s t : State} :
    perform i eff s = .next t ↔ s.cfg.admissible = true ∧ enabled i s = true ∧ eff s = t := by
  unfold perform
  split <;> rename_i hc
  · split <;> rename_i he <;> simp [hc, he]
  · simp [hc]

theorem perform_of_enabled {i : Instr} {eff : State → State} {s : State} (hc : s.cfg.admissible = true)
    (he : enabled i s = true) : perform i eff s = .next (eff s) :=
  perform_next_iff.2 ⟨hc, he, rfl⟩

theorem perform_of_not_enabled {i : Instr} {eff : State → State} {s : State} (hc : s.cfg.admissible = true)
    (he : enabled i s = false) : perform i eff s = .refused (.notEnabled i) := by
  simp [perform, hc, he]

theorem perform_of_inadmissible {i : Instr} {eff : State → State} {s : State} (hc : s.cfg.admissible = false) :
    perform i eff s = .refused .inadmissibleConfig := by
  simp [perform, hc]

/-- What each operation does to a state in which it is enabled. -/
def effect : Instr → State → State
  | .stHead f, s => s.setPh (if f then .stSel else .nFf)
  | .stSel t, s => (s.setSel (if t then .chase else .strobe)).setPh .snapDi
  | .nFf f, s => (s.setFfl f).setPh .nTest
  | .nTest t, s => if t then s.toggleTm.setPh .nWait else s.setPh .nSel
  | .nWait t, s => s.setPh (if t then .nWait else .nSel)
  | .nSel, s => if s.tm then (s.setSel .allon).setPh .drive else (s.setSel .sched).setPh .snapDi
  | .snapDi, s => (s.setIe false).setPh .snapRd
  | .snapRd, s => (s.setSnap s.tc).setPh .snapEi
  | .snapEi, s => (s.setIe true).setPh .drive
  | .drive, s => (s.portWrite (portAByte (mux s.cfg s.sel s.snap)) (portBByte (mux s.cfg s.sel s.snap))).setPh
      (if selfTestSource s.sel then .stHead else .nFf)
  | .tickSvc, s => takeTick s
  | .tickReq, s => s.setTf true
  | .reset, s => powerOn s

/-- Every operation is its effect in the common frame. -/
theorem exec_eq_perform (i : Instr) (s : State) : exec i s = perform i (effect i) s := by
  cases i <;> rfl

/-- What a step of an operation can be: this one lemma inverts every meaning. -/
theorem exec_next_iff {i : Instr} {s t : State} :
    exec i s = .next t ↔ s.cfg.admissible = true ∧ enabled i s = true ∧ effect i s = t := by
  rw [exec_eq_perform, perform_next_iff]

theorem exec_of_enabled {i : Instr} {s : State} (hc : s.cfg.admissible = true) (he : enabled i s = true) :
    exec i s = .next (effect i s) :=
  exec_next_iff.2 ⟨hc, he, rfl⟩

theorem exec_of_not_enabled {i : Instr} {s : State} (hc : s.cfg.admissible = true) (he : enabled i s = false) :
    exec i s = .refused (.notEnabled i) := by
  rw [exec_eq_perform, perform_of_not_enabled hc he]

/-! ### Enabledness -/

/-- A main operation is enabled exactly when its phase is the state's (30_encoding.md R50). -/
theorem enabled_main_iff {i : Instr} {s : State} (h : i.agent = .main) : enabled i s = true ↔ i.phase = some s.ph := by
  simp [enabled, h]

@[simp] theorem enabled_tickSvc (s : State) : enabled .tickSvc s = (s.tf && s.ie) := rfl

@[simp] theorem enabled_tickReq (s : State) : enabled .tickReq s = true := rfl

@[simp] theorem enabled_reset (s : State) : enabled .reset s = true := rfl

/-! ### The counter -/

/-- For an admissible increment one conditional subtraction is reduction modulo `W` (40_tick.md R66). -/
theorem advance_toNat {c : Cfg} {tc : Word} {inc : Nat} (hc : c.admissible = true) (ht : tc.toNat < c.w) (hi : inc ≤ c.w) :
    (advance c tc inc).toNat = (tc.toNat + inc) % c.w := by
  obtain ⟨-, ⟨_, hw⟩, -⟩ := admissible_iff.1 hc
  unfold advance
  simp only [BitVec.toNat_ofNat]
  split <;> rename_i h
  · rw [Nat.mod_eq_of_lt (by omega), Nat.mod_eq_sub_mod h, Nat.mod_eq_of_lt (by omega)]
  · rw [Nat.mod_eq_of_lt (by omega), Nat.mod_eq_of_lt (by omega)]

theorem tickIncrement_le {c : Cfg} (hc : c.admissible = true) (ffl : Bool) : tickIncrement c ffl ≤ c.w := by
  obtain ⟨-, ⟨hw, -⟩, ⟨-, hf⟩, -⟩ := admissible_iff.1 hc
  unfold tickIncrement
  split <;> omega

/-- The largest value of the counter, `W - 1`, as a word (40_tick.md R66). -/
theorem lastValue_toNat {c : Cfg} (hc : c.admissible = true) : (BitVec.ofNat 16 (c.w - 1)).toNat = c.w - 1 := by
  obtain ⟨-, ⟨_, hw⟩, -⟩ := admissible_iff.1 hc
  rw [BitVec.toNat_ofNat, Nat.mod_eq_of_lt (by omega)]

/-- A served tick keeps every register but `TC` and `TF` (60_exceptions.md R105). -/
theorem takeTick_eq (s : State) :
    takeTick s = { s with tf := false, tc := advance s.cfg s.tc (tickIncrement s.cfg s.ffl) } := rfl

@[simp] theorem takeTick_tc (s : State) : (takeTick s).tc = advance s.cfg s.tc (tickIncrement s.cfg s.ffl) := rfl
@[simp] theorem takeTick_tf (s : State) : (takeTick s).tf = false := rfl
@[simp] theorem takeTick_snap (s : State) : (takeTick s).snap = s.snap := rfl
@[simp] theorem takeTick_ffl (s : State) : (takeTick s).ffl = s.ffl := rfl
@[simp] theorem takeTick_tm (s : State) : (takeTick s).tm = s.tm := rfl
@[simp] theorem takeTick_ie (s : State) : (takeTick s).ie = s.ie := rfl
@[simp] theorem takeTick_sel (s : State) : (takeTick s).sel = s.sel := rfl
@[simp] theorem takeTick_ph (s : State) : (takeTick s).ph = s.ph := rfl
@[simp] theorem takeTick_pa (s : State) : (takeTick s).pa = s.pa := rfl
@[simp] theorem takeTick_pb (s : State) : (takeTick s).pb = s.pb := rfl
@[simp] theorem takeTick_hist (s : State) : (takeTick s).hist = s.hist := rfl
@[simp] theorem takeTick_events (s : State) : (takeTick s).events = s.events := rfl
@[simp] theorem takeTick_cfg (s : State) : (takeTick s).cfg = s.cfg := rfl
@[simp] theorem takeTick_draws (s : State) : (takeTick s).draws = s.draws := rfl

/-- The fields of the state after power-on, the two port latches apart (70_reset_and_hazards.md R115). -/
theorem powerOn_fields (s : State) :
    (powerOn s).tc = 0#16 ∧ (powerOn s).snap = 0#16 ∧ (powerOn s).ffl = false ∧ (powerOn s).tm = false ∧
    (powerOn s).ie = true ∧ (powerOn s).tf = false ∧ (powerOn s).sel = .sched ∧ (powerOn s).ph = .stHead ∧
    (powerOn s).hist = s.hist ∧ (powerOn s).events = s.events ∧ (powerOn s).cfg = s.cfg :=
  ⟨rfl, rfl, rfl, rfl, rfl, rfl, rfl, rfl, rfl, rfl, rfl⟩

@[simp] theorem effect_cfg (i : Instr) (s : State) : (effect i s).cfg = s.cfg := by
  cases i <;> first | rfl | (simp only [effect]; split <;> rfl)

/-- No operation writes the configuration (10_state.md R30). -/
theorem exec_cfg {i : Instr} {s t : State} (h : exec i s = .next t) : t.cfg = s.cfg := by
  obtain ⟨-, -, rfl⟩ := exec_next_iff.1 h
  exact effect_cfg i s

/-! ### The ROM -/

/-- A read in the schedule's range (20_memory.md R35). -/
theorem romRead_sched (c : Cfg) {k : Nat} (h : k < 16) :
    romRead c (BitVec.ofNat 6 (0x00 + k)) = c.sched.toList.getD k 0#16 := by
  have hk : (BitVec.ofNat 6 (0x00 + k)).toNat = k := by simp [BitVec.toNat_ofNat]; omega
  simp only [romRead, hk]
  rw [if_pos h]

/-- A read in the self-test table's range. -/
theorem romRead_selftest (c : Cfg) {k : Nat} (h : k < 16) :
    romRead c (BitVec.ofNat 6 (0x10 + k)) = c.selftest.getD k 0#16 := by
  have hk : (BitVec.ofNat 6 (0x10 + k)).toNat = 0x10 + k := by simp [BitVec.toNat_ofNat]; omega
  simp only [romRead, hk]
  rw [if_neg (by omega), if_pos (by omega), Nat.add_sub_cancel_left]

/-- A read of a strobe pattern. -/
theorem romRead_knuckle (c : Cfg) {k : Nat} (h : k < 2) :
    romRead c (BitVec.ofNat 6 (0x20 + k)) = c.knuckle.toList.getD k 0#16 := by
  have hk : (BitVec.ofNat 6 (0x20 + k)).toNat = 0x20 + k := by simp [BitVec.toNat_ofNat]; omega
  simp only [romRead, hk]
  rw [if_neg (by omega), if_neg (by omega), if_pos (by omega), Nat.add_sub_cancel_left]

/-- The all-on constant. -/
theorem romRead_allon (c : Cfg) : romRead c 0x22#6 = c.allon := rfl

/-! ### Fetch and step -/

theorem step_nil {s : State} (h : s.events = []) : step s = .refused .endOfTrace := by
  simp [step, fetch, h]

theorem step_ok {s : State} {w : StepWord} {ws : List StepWord} {i : Instr} (h : s.events = w :: ws)
    (hd : decode w = .ok i) : step s = exec i (s.setEvents ws) := by
  simp [step, fetch, h, hd]

theorem step_reserved {s : State} {w : StepWord} {ws : List StepWord} {e : DecodeError} (h : s.events = w :: ws)
    (hd : decode w = .error e) : step s = .refused (.reservedStepWord w) := by
  simp [step, fetch, h, hd]

/-- A step that takes a next state ran the operation of the next step word. -/
theorem step_next {s t : State} (h : step s = .next t) :
    ∃ w ws i, s.events = w :: ws ∧ decode w = .ok i ∧ exec i (s.setEvents ws) = .next t := by
  cases he : s.events with
  | nil => simp [step_nil he] at h
  | cons w ws =>
    cases hd : decode w with
    | error e => simp [step_reserved he hd] at h
    | ok i => exact ⟨w, ws, i, rfl, hd, by rwa [step_ok he hd] at h⟩

/-! ### Running lists of operations -/

@[simp] theorem runOps_nil (s : State) : runOps [] s = .next s := rfl

/-- One operation, then the rest. -/
theorem runOps_cons_next {i : Instr} {is : List Instr} {s u : State} :
    runOps (i :: is) s = .next u ↔ ∃ t, exec i s = .next t ∧ runOps is t = .next u := by
  rw [runOps]
  cases exec i s <;> simp

theorem runOps_cons_of {i : Instr} {is : List Instr} {s t : State} (h : exec i s = .next t) :
    runOps (i :: is) s = runOps is t := by
  rw [runOps, h]

theorem runOps_append_next {is js : List Instr} {s u : State} :
    runOps (is ++ js) s = .next u ↔ ∃ t, runOps is s = .next t ∧ runOps js t = .next u := by
  induction is generalizing s with
  | nil => simp
  | cons i is ih =>
    simp only [List.cons_append, runOps_cons_next, ih]
    constructor
    · rintro ⟨t, ht, v, hv, hu⟩; exact ⟨v, ⟨t, ht, hv⟩, hu⟩
    · rintro ⟨v, ⟨t, ht, hv⟩, hu⟩; exact ⟨t, ht, v, hv, hu⟩

/-- A property that every operation of the list keeps holds at the end of the run. -/
theorem runOps_induction {P : State → Prop} {is : List Instr} {s t : State}
    (step : ∀ i ∈ is, ∀ s t, exec i s = .next t → P s → P t) (h : runOps is s = .next t) (hs : P s) : P t := by
  induction is generalizing s with
  | nil => simpa using (by simpa using h : s = t) ▸ hs
  | cons i is ih =>
    obtain ⟨u, hu, hr⟩ := runOps_cons_next.1 h
    exact ih (fun j hj => step j (List.mem_cons_of_mem _ hj)) hr (step i List.mem_cons_self s u hu hs)

end Sys2Proof.Machine
end

