-- ==== Sys2Proof/Laws/PerInstr.lean ====
section
/-! SUPPORT. Statements made per instruction. Family `CanonicalWord`: the encoder's word is well formed and has every ignored
bit 0 (30_encoding.md R52, R57). -/

namespace Sys2Proof.Laws.CanonicalWord

/-- The encoding of `i` is a well-formed step word in canonical form. -/
def Statement (i : Instr) : Prop :=
  StepWord.wellFormed (encode i) = true ∧ encode i &&& significantBits i = encode i

theorem stHead (f : Bool) : Statement (.stHead f) := by cases f <;> exact ⟨by decide, by decide⟩
theorem stSel (t : Bool) : Statement (.stSel t) := by cases t <;> exact ⟨by decide, by decide⟩
theorem nFf (f : Bool) : Statement (.nFf f) := by cases f <;> exact ⟨by decide, by decide⟩
theorem nTest (t : Bool) : Statement (.nTest t) := by cases t <;> exact ⟨by decide, by decide⟩
theorem nWait (t : Bool) : Statement (.nWait t) := by cases t <;> exact ⟨by decide, by decide⟩
theorem nSel : Statement .nSel := ⟨by decide, by decide⟩
theorem snapDi : Statement .snapDi := ⟨by decide, by decide⟩
theorem snapRd : Statement .snapRd := ⟨by decide, by decide⟩
theorem snapEi : Statement .snapEi := ⟨by decide, by decide⟩
theorem drive : Statement .drive := ⟨by decide, by decide⟩
theorem tickSvc : Statement .tickSvc := ⟨by decide, by decide⟩
theorem tickReq : Statement .tickReq := ⟨by decide, by decide⟩
theorem reset : Statement .reset := ⟨by decide, by decide⟩

end Sys2Proof.Laws.CanonicalWord
end

