-- ==== Sys2Proof/Tests/Slice0.lean ====
section
/-! SUPPORT. The model's own tests: refusals by the well-formedness checks, decoding of words written out from
30_encoding.md R53, one or two steps per operation with the values of 95_test_vectors.md, and a witness for the hypotheses of
every obligation that has some. -/

namespace Sys2Proof.Tests

open Sys2Proof.Machine

/-- A state of the normal loop with known ports: the start of most vectors. -/
def base : State where
  tc := 0
  snap := 0
  ffl := false
  tm := false
  ie := true
  tf := false
  sel := .sched
  ph := .nFf
  pa := 0x44
  pb := 0xBB
  hist := []
  events := []
  cfg := p16
  draws := 0

/-- The next state, if the outcome is one. -/
def nextOf : Host.Outcome State Fault Refusal → Option State
  | .next s => some s
  | .fault _ => none
  | .refused _ => none

/-- The refusal, if the outcome is one. -/
def refusalOf : Host.Outcome State Fault Refusal → Option Refusal
  | .refused r => some r
  | .fault _ => none
  | .next _ => none

/-- The operation the decoder reads, if any. -/
def decoded (w : StepWord) : Option Instr :=
  match decode w with
  | .ok i => some i
  | .error _ => none

/-- Run the canonical words of a trace. -/
def runWords (ws : List StepWord) (s : State) : Host.Outcome State Fault Refusal :=
  Host.Core.run Sys2Proof.core ws.length { s with events := ws }

/-! ### Well-formedness: each check refuses an ill-formed term (00_scope.md R5, 30_encoding.md R57) -/

theorem test_cfg_refused_cw : { p16 with cw := 8 }.admissible = false := by decide
theorem test_cfg_refused_w_too_large : { p16 with w := 16 * 4097, div := 4097 }.admissible = false := by decide
theorem test_cfg_refused_fastMult : { p16 with fastMult := 65537 }.admissible = false ∧
    { p16 with fastMult := 0 }.admissible = false := by decide
theorem test_cfg_refused_div_rate : { p16 with div := 0, w := 0 }.admissible = false ∧
    { p16 with rate := 0 }.admissible = false := by decide
theorem test_cfg_refused_w_not_16_div : { p16 with div := 3600 }.admissible = false := by decide
theorem test_cfg_refused_n : { p16 with selftest := [] }.admissible = false ∧
    { p16 with selftest := walkingOne 17 }.admissible = false := by decide

/-- The spec's admissible boundary: `FAST_MULT = W` (95_test_vectors.md T16), `N = 14` (X16). -/
theorem test_cfg_accepted : { p57 with fastMult := 57600 }.admissible = true ∧
    (defaultCfg 65536 16 64 4096 14).admissible = true := by decide

theorem test_words_refused : StepWord.wellFormed 0x28 = false ∧ StepWord.wellFormed 0x3F = false ∧
    Trace.wellFormed [0xC0, 0x28] = false ∧ StepWord.wellFormed 0x27 = true ∧ StepWord.wellFormed 0x40 = true := by decide

/-- A model refuses any other configuration (R5). -/
theorem test_exec_refuses_cfg :
    refusalOf (exec .tickReq { base with cfg := { p16 with rate := 0 } }) = some .inadmissibleConfig := by decide

/-! ### Decoding: words written out from 30_encoding.md R53, vectors E1 to E27 -/

theorem test_decode_stHead : decoded 0b00000000 = some (.stHead false) ∧ decoded 0b00000001 = some (.stHead true) ∧
    decoded 0b00000011 = some (.stHead true) := by decide
theorem test_decode_stSel : decoded 0b00000100 = some (.stSel false) ∧ decoded 0b00000110 = some (.stSel true) ∧
    decoded 0b00000111 = some (.stSel true) := by decide
theorem test_decode_nFf : decoded 0b00001000 = some (.nFf false) ∧ decoded 0b00001001 = some (.nFf true) := by decide
theorem test_decode_nTest : decoded 0b00001100 = some (.nTest false) ∧ decoded 0b00001110 = some (.nTest true) := by decide
theorem test_decode_nWait : decoded 0b00010000 = some (.nWait false) ∧ decoded 0b00010010 = some (.nWait true) := by decide
theorem test_decode_nSel : decoded 0b00010100 = some .nSel ∧ decoded 0b00010111 = some .nSel := by decide
theorem test_decode_snapshot : decoded 0b00011000 = some .snapDi ∧ decoded 0b00011100 = some .snapRd ∧
    decoded 0b00100000 = some .snapEi := by decide
theorem test_decode_drive : decoded 0b00100100 = some .drive ∧ decoded 0b00100111 = some .drive := by decide
theorem test_decode_reserved : decoded 0b00101000 = none ∧ decoded 0b00111111 = none := by decide
theorem test_decode_tick : decoded 0b01000000 = some .tickSvc ∧ decoded 0b01111111 = some .tickSvc ∧
    decoded 0b10000000 = some .tickReq ∧ decoded 0b10111111 = some .tickReq := by decide
theorem test_decode_reset : decoded 0b11000000 = some .reset ∧ decoded 0b11111111 = some .reset := by decide

/-- Counts of section 2.8: 40 main words, 24 invalid, 64 for each of the other three agents. -/
theorem test_decode_counts :
    ((List.range 256).filter fun n => (decoded (BitVec.ofNat 8 n)).isNone).length = 24 ∧
    ((List.range 256).filter fun n => decoded (BitVec.ofNat 8 n) = some .tickSvc).length = 64 := by decide

theorem test_decodeTableWord : decodeTableWord 8 0x0E = some (.nTest true) ∧ decodeTableWord 8 0x28 = none ∧
    decodeTableWord 8 0x180 = none := by decide

/-! ### One step per operation -/

/-- M1, M2. -/
theorem test_stHead : (nextOf (exec (.stHead true) { base with ph := .stHead })).map (·.ph) = some .stSel ∧
    (nextOf (exec (.stHead false) { base with ph := .stHead })).map (·.ph) = some .nFf := by decide
/-- M13: self-test cannot be re-entered. -/
theorem test_stHead_not_enabled : refusalOf (exec (.stHead true) base) = some (.notEnabled (.stHead true)) := by decide
/-- M3, M4, B10. -/
theorem test_stSel : nextOf (exec (.stSel true) { base with ph := .stSel }) = some { base with sel := .chase, ph := .snapDi } ∧
    nextOf (exec (.stSel false) { base with ph := .stSel }) = some { base with sel := .strobe, ph := .snapDi } := by decide
/-- M5, M6. -/
theorem test_nFf : nextOf (exec (.nFf true) base) = some { base with ffl := true, ph := .nTest } ∧
    nextOf (exec (.nFf false) { base with ffl := true }) = some { base with ph := .nTest } := by decide
/-- B1, B2, B3. -/
theorem test_nTest : nextOf (exec (.nTest true) { base with ph := .nTest }) = some { base with tm := true, ph := .nWait } ∧
    nextOf (exec (.nTest true) { base with tm := true, ph := .nTest }) = some { base with ph := .nWait } ∧
    nextOf (exec (.nTest false) { base with tm := true, ph := .nTest }) = some { base with tm := true, ph := .nSel } := by decide
/-- B4, B5. -/
theorem test_nWait :
    nextOf (exec (.nWait true) { base with tm := true, ph := .nWait }) = some { base with tm := true, ph := .nWait } ∧
    nextOf (exec (.nWait false) { base with tm := true, ph := .nWait }) = some { base with tm := true, ph := .nSel } := by decide
/-- M7, M8. -/
theorem test_nSel :
    nextOf (exec .nSel { base with tm := true, ph := .nSel }) = some { base with tm := true, sel := .allon, ph := .drive } ∧
    nextOf (exec .nSel { base with sel := .allon, ph := .nSel }) = some { base with ph := .snapDi } := by decide
/-- K1. -/
theorem test_snapDi : nextOf (exec .snapDi { base with tf := true, ph := .snapDi }) =
    some { base with tf := true, ie := false, ph := .snapRd } := by decide
/-- K2. -/
theorem test_snapRd : nextOf (exec .snapRd { base with tc := 0x1234, ie := false, ph := .snapRd }) =
    some { base with tc := 0x1234, snap := 0x1234, ie := false, ph := .snapEi } := by decide
/-- K3. -/
theorem test_snapEi : nextOf (exec .snapEi { base with ie := false, tf := true, ph := .snapEi }) =
    some { base with tf := true, ph := .drive } := by decide
/-- X2, X5. -/
theorem test_drive_normal :
    nextOf (exec .drive { base with snap := 0x5000, ph := .drive }) =
      some { base with snap := 0x5000, pa := 0x55, pb := 0xAA, hist := [(0x55, 0xAA)] } ∧
    nextOf (exec .drive { base with sel := .allon, ph := .drive }) =
      some { base with sel := .allon, pa := 0xFF, pb := 0x03, hist := [(0xFF, 0x03)] } := by decide
/-- X9, X13, X16. -/
theorem test_drive_selftest :
    nextOf (exec .drive { base with snap := 0x009F, sel := .chase, ph := .drive }) =
      some { base with snap := 0x009F, sel := .chase, ph := .stHead, pa := 0x00, pb := 0x02, hist := [(0x00, 0x02)] } ∧
    nextOf (exec .drive { base with snap := 0x0010, sel := .strobe, ph := .drive }) =
      some { base with snap := 0x0010, sel := .strobe, ph := .stHead, pa := 0xAA, pb := 0x02, hist := [(0xAA, 0x02)] } ∧
    mux (defaultCfg 65536 16 64 4096 14) .chase 0x00D0 = 0x2000 := by decide
/-- T1, T2, T5, T6: natural wrap. -/
theorem test_tickSvc_natural :
    nextOf (exec .tickSvc { base with tf := true }) = some { base with tc := 1 } ∧
    nextOf (exec .tickSvc { base with tf := true, tc := 65535 }) = some { base with tc := 0 } ∧
    nextOf (exec .tickSvc { base with tf := true, ffl := true, tc := 65500 }) = some { base with ffl := true, tc := 28 } ∧
    nextOf (exec .tickSvc { base with tf := true, ffl := true, tc := 65535 }) = some { base with ffl := true, tc := 63 } := by
  decide
/-- T9, T11, T12, T15, T16: the explicit threshold. -/
theorem test_tickSvc_explicit :
    advance p57 57536 64 = 0 ∧ advance p57 57598 1 = 57599 ∧ advance p57 57590 64 = 54 ∧ advance p57 57599 1000 = 999 ∧
    advance p57 0 57600 = 0 := by decide
/-- T20, T21. -/
theorem test_tickSvc_not_enabled :
    refusalOf (exec .tickSvc { base with tf := true, ie := false }) = some (.notEnabled .tickSvc) ∧
    refusalOf (exec .tickSvc base) = some (.notEnabled .tickSvc) := by decide
/-- T18, T19, T22. -/
theorem test_tickReq : nextOf (exec .tickReq base) = some { base with tf := true } ∧
    nextOf (exec .tickReq { base with tf := true }) = some { base with tf := true } ∧
    nextOf (exec .tickReq { base with ie := false, ph := .snapRd }) =
      some { base with ie := false, tf := true, ph := .snapRd } := by decide
/-- Z2: everything but the ports; `CSR` is 0x0200. -/
theorem test_reset :
    (nextOf (exec .reset
      { tc := 0xFFFF, snap := 0x8000, ffl := true, tm := true, ie := false, tf := true, sel := .strobe, ph := .snapEi,
        pa := 0, pb := 0, hist := [(1, 2)], events := [], cfg := p16, draws := 5 })).map
      (fun t => (t.tc, t.snap, csr t, t.hist.length)) = some (0, 0, 0x0200, 1) := by decide

/-! ### Step, fetch, views, notation -/

/-- P6: a word that is not enabled, a tick with none pending, and a reserved word, from the reset state. -/
theorem test_step_refusals :
    refusalOf (step { State.reset with events := [0x08] }) = some (.notEnabled (.nFf false)) ∧
    refusalOf (step { State.reset with events := [0x40] }) = some (.notEnabled .tickSvc) ∧
    refusalOf (step { State.reset with events := [0x28] }) = some (.reservedStepWord 0x28) ∧
    refusalOf (step State.reset) = some .endOfTrace := by decide

/-- The word placed is the one the next step runs, whatever phase the reset state is in. -/
theorem test_withFetchWord :
    (nextOf (step (State.reset.withFetchWord 8 0x0E))).map (fun t => (t.tm, t.ph)) = some (true, .nWait) ∧
    (nextOf (step (State.reset.withFetchWord 8 0x40))).map (fun t => (t.tc, t.tf)) = some (1, false) ∧
    (nextOf (step (State.reset.withFetchWord 8 0x04))).map (fun t => (t.sel, t.ph)) = some (.strobe, .snapDi) := by decide

/-- Program P5 (an overrun inside the critical section): its end state. -/
theorem test_program_P5 :
    nextOf (runWords [0x18, 0x80, 0x1C, 0x80, 0x20, 0x40, 0x24] { base with tc := 0x0010, ph := .snapDi }) =
      some { base with tc := 0x0011, snap := 0x0010, pa := 0x00, pb := 0xFF, hist := [(0x00, 0xFF)] } := by decide

/-- B9: both buttons, the counter runs fast in the wait. -/
theorem test_vector_B9 :
    (nextOf (runOps ([.nFf true, .nTest true] ++ expand .tick ++ [.nWait true] ++ expand .tick ++ [.nWait false]) base)).map
      (fun t => (t.ffl, t.tm, t.ph, t.tc)) = some (true, true, .nSel, 128) := by decide

/-- `CSR` packing, the figures of section 2.8. -/
theorem test_csr : csr { base with tf := true, ffl := true, ph := .nSel } = 0x0385 ∧
    csr { base with ie := false, tf := true, ph := .snapRd } = 0x0107 ∧
    csr { base with tm := true, sel := .allon, ph := .drive } = 0x0259 ∧
    csr { base with sel := .strobe, ph := .stHead } = 0x0230 := by decide

/-- The mode view after M1, M3, M4, M7. -/
theorem test_mode : (mode .stSel .sched false, mode .snapDi .chase false, mode .snapDi .strobe false, mode .drive .allon true) =
    (.bootSelftest, .selftestChase, .selftestStrobe, .testmodeOn) := by decide

/-- Trace syntax, the examples of 30_encoding.md R60. -/
theorem test_render : renderTrace [.stHead true, .nTest false, .drive, .tickReq] =
    "ST_HEAD f=1; N_TEST t=0; DRIVE; TICK_REQ" := by decide

/-- The state notation, the end of program P5. -/
theorem test_renderState : renderState true { base with tc := 0x0011, snap := 0x0010, pa := 0x00, pb := 0xFF } =
    "TC=0011 SNAP=0010 FFL=0 TM=0 IE=1 TF=0 SEL=00 PH=2 PA=00 PB=FF" := by decide

/-! ### Witnesses: states, operands and runs that meet the hypotheses of the obligations, each clause at a boundary -/

/-- The states of the infinite run of `op` from `s`. -/
def statesFrom (s : State) (op : Nat → Instr) : Nat → State
  | 0 => s
  | n + 1 => effect (op n) (statesFrom s op n)

theorem statesFrom_cfg (s : State) (op : Nat → Instr) (n : Nat) : (statesFrom s op n).cfg = s.cfg := by
  induction n with
  | zero => rfl
  | succ n ih => rw [statesFrom, effect_cfg, ih]

/-- An infinite execution from enabled operations. -/
def execution (s : State) (op : Nat → Instr) (hc : s.cfg.admissible = true)
    (he : ∀ n, enabled (op n) (statesFrom s op n) = true) : Execution where
  state := statesFrom s op
  op := op
  steps n := exec_of_enabled (by rw [statesFrom_cfg]; exact hc) (he n)

/-- A request, its service, a sample of the wait; for ever. -/
def tickingOp (n : Nat) : Instr :=
  match n % 3 with
  | 0 => .tickReq
  | 1 => .tickSvc
  | _ => .nWait true

theorem tickingOp_cases (n : Nat) : (n % 3 = 0 ∧ tickingOp n = .tickReq) ∨ (n % 3 = 1 ∧ tickingOp n = .tickSvc) ∨
    (n % 3 = 2 ∧ tickingOp n = .nWait true) := by
  have : n % 3 = 0 ∨ n % 3 = 1 ∨ n % 3 = 2 := by omega
  rcases this with h | h | h <;> simp [tickingOp, h]

theorem ticking_states (n : Nat) :
    (statesFrom { base with ph := .nWait } tickingOp n).ph = .nWait ∧
    (statesFrom { base with ph := .nWait } tickingOp n).ie = true ∧
    (statesFrom { base with ph := .nWait } tickingOp n).ffl = false ∧
    (statesFrom { base with ph := .nWait } tickingOp n).tf = decide (n % 3 = 1) := by
  induction n with
  | zero => exact ⟨rfl, rfl, rfl, rfl⟩
  | succ n ih =>
    obtain ⟨h1, h2, h3, h4⟩ := ih
    rcases tickingOp_cases n with ⟨h, ho⟩ | ⟨h, ho⟩ | ⟨h, ho⟩
    · have : (n + 1) % 3 = 1 := by omega
      simp [statesFrom, ho, effect, h1, h2, h3, this]
    · have : (n + 1) % 3 = 2 := by omega
      simp [statesFrom, ho, effect, h1, h2, h3, this]
    · have : (n + 1) % 3 = 0 := by omega
      simp [statesFrom, ho, effect, h2, h3, h4, h, this]

/-- TEST held for ever in the wait while ticks are requested and served one by one. -/
def ticking : Execution :=
  execution { base with ph := .nWait } tickingOp (by decide) fun n => by
    obtain ⟨h1, h2, -, h4⟩ := ticking_states n
    rcases tickingOp_cases n with ⟨h, ho⟩ | ⟨h, ho⟩ | ⟨h, ho⟩
    · rw [ho]; rfl
    · simp [ho, h2, h4, h]
    · rw [ho, enabled_main_iff rfl, h1]; rfl

theorem ticking_no_reset (n : Nat) : ticking.op n ≠ .reset := by
  show tickingOp n ≠ .reset
  rcases tickingOp_cases n with ⟨-, h⟩ | ⟨-, h⟩ | ⟨-, h⟩ <;> simp [h]

theorem ticking_op (n k : Nat) : ticking.op (3 * n + k) = tickingOp (3 * n + k) := rfl

theorem ticking_noOverrun : NoOverrun ticking := by
  intro n hn
  have hn : tickingOp n = .tickReq := hn
  have h4 : (ticking.state n).tf = _ := (ticking_states n).2.2.2
  rw [h4]
  rcases tickingOp_cases n with ⟨h, ho⟩ | ⟨h, ho⟩ | ⟨h, ho⟩
  · simp [h]
  · simp [ho] at hn
  · simp [ho] at hn

theorem ticking_fMain : FMain ticking := fun n =>
  ⟨3 * n + 2, by omega, by have h : (3 * n + 2) % 3 = 2 := by omega
                           rw [ticking_op]; simp [tickingOp, h, Instr.agent]⟩

theorem ticking_served (n : Nat) : ∃ m, n ≤ m ∧ ticking.op m = .tickSvc :=
  ⟨3 * n + 1, by omega, by have h : (3 * n + 1) % 3 = 1 := by omega
                           rw [ticking_op]; simp [tickingOp, h]⟩

theorem inv_waiting : Inv { base with ph := .nWait } := by constructor <;> decide

theorem ticking_timetable : Timetable ticking (fun n => ((n / 3 : Nat) : Rat) / 16) 0 (fun k => 3 * k) where
  ordered j k h := by omega
  exactly n := by
    show tickingOp n = .tickReq ↔ _
    rcases tickingOp_cases n with ⟨h, ho⟩ | ⟨h, ho⟩ | ⟨h, ho⟩
    · exact ⟨fun _ => ⟨n / 3, by omega⟩, fun _ => ho⟩
    · simp only [ho]; constructor
      · intro h; cases h
      · rintro ⟨k, rfl⟩; omega
    · simp only [ho]; constructor
      · intro h; cases h
      · rintro ⟨k, rfl⟩; omega
  onTime k := by
    show (((3 * k / 3 : Nat) : Rat) / 16) = 0 + (k : Rat) / ((16 : Nat) : Rat)
    rw [Nat.mul_div_cancel_left k (by omega)]; simp

/-- Power-up with the FF level `f`; after the boot decision only requests. -/
def bootOp (f : Bool) : Nat → Instr
  | 0 => .reset
  | 1 => .stHead f
  | _ => .tickReq

def boot (f : Bool) : Execution :=
  execution { base with ph := .nWait } (bootOp f) (by decide) fun n => by
    match n with
    | 0 => rfl
    | 1 => rfl
    | _ + 2 => rfl

/-- The FF pin at the level `f`, TEST released, at every step. -/
def bootPins (f : Bool) : PinLevels (boot f) where
  ff _ := f
  test _ := false
  seenFf n v h := by
    match n with
    | 0 => simp [boot, execution, bootOp, Instr.sample] at h
    | 1 => simpa [boot, execution, bootOp, Instr.sample] using h.symm
    | _ + 2 => simp [boot, execution, bootOp, Instr.sample] at h
  seenTest n v h := by
    match n with
    | 0 => simp [boot, execution, bootOp, Instr.sample] at h
    | 1 => simp [boot, execution, bootOp, Instr.sample] at h
    | _ + 2 => simp [boot, execution, bootOp, Instr.sample] at h

/-- Power-up, into the normal loop, then TEST pressed and held. -/
def pressOp : Nat → Instr
  | 0 => .reset
  | 1 => .stHead false
  | 2 => .nFf false
  | 3 => .nTest true
  | _ => .nWait true

theorem press_states (n : Nat) : (statesFrom base pressOp (n + 4)).ph = .nWait := by
  induction n with
  | zero => rfl
  | succ n ih => simp [statesFrom, pressOp, effect]

def pressed : Execution :=
  execution base pressOp (by decide) fun n => by
    match n with
    | 0 => rfl
    | 1 => rfl
    | 2 => rfl
    | 3 => rfl
    | n + 4 =>
      have h : pressOp (n + 4) = .nWait true := rfl
      rw [h, enabled_main_iff rfl, press_states]; rfl

/-- The physical press number 0 goes on from step 3. -/
def pressOf (n : Nat) : Option Nat := if 3 ≤ n then some 0 else none

theorem pressOf_some {n p : Nat} (h : pressOf n = some p) : p = 0 := by
  unfold pressOf at h; split at h
  · simpa using h.symm
  · cases h

theorem press_samples (n : Nat) : testSample pressed n = (if 3 ≤ n then some true else none) := by
  match n with
  | 0 => rfl
  | 1 => rfl
  | 2 => rfl
  | 3 => rfl
  | n + 4 => show some true = _; rw [if_pos (by omega)]

theorem press_clean : CleanPress pressed pressOf where
  heldInPress n h := by
    rw [press_samples] at h
    unfold pressOf
    split at h <;> simp_all
  unbroken a b c p _ _ _ _ _ _ h := by
    rw [press_samples] at h
    split at h <;> cases h
  sampled n p h := ⟨3, by rw [pressOf_some h]; rfl, by rw [press_samples]; rfl⟩
  separated a c p q _ h1 h2 h3 := absurd ((pressOf_some h1).trans (pressOf_some h2).symm) h3

/-! The operations' own statements: every operation enabled, every operation not enabled, the inputs of both cases. -/

theorem witness_InadmissibleConfigurationIsRefused :
    ({ base with cfg := { p16 with w := 0, div := 0 } } : State).cfg.admissible = false ∧
    ({ base with cfg := { p57 with fastMult := 57600 } } : State).cfg.admissible = true := by decide

theorem witness_operations_enabled :
    base.cfg.admissible = true ∧ ({ base with ph := .stHead } : State).ph = .stHead ∧
    ({ base with ph := .stSel } : State).ph = .stSel ∧ base.ph = .nFf ∧ ({ base with ph := .nTest } : State).ph = .nTest ∧
    ({ base with ph := .nWait } : State).ph = .nWait ∧ ({ base with ph := .nSel } : State).ph = .nSel ∧
    ({ base with ph := .snapRd } : State).ph = .snapRd ∧ ({ base with ph := .drive } : State).ph = .drive ∧
    ({ base with tf := true } : State).tf = true ∧ ({ base with tf := true } : State).ie = true := by decide

theorem witness_operations_not_enabled : base.cfg.admissible = true ∧ base.ph ≠ .stHead ∧ base.ph ≠ .stSel ∧
    State.reset.ph ≠ .nFf ∧ base.ph ≠ .nTest ∧ base.ph ≠ .nWait ∧ base.ph ≠ .nSel ∧ base.ph ≠ .snapDi ∧ base.ph ≠ .snapRd ∧
    base.ph ≠ .snapEi ∧ base.ph ≠ .drive ∧ ¬(base.tf = true ∧ base.ie = true) := by decide

theorem witness_operations_words :
    0x03#8 &&& 0xFD#8 = encode (.stHead true) ∧ 0x07#8 &&& 0xFE#8 = encode (.stSel true) ∧
    0x0A#8 &&& 0xFD#8 = encode (.nFf false) ∧ 0x0F#8 &&& 0xFE#8 = encode (.nTest true) ∧
    0x11#8 &&& 0xFE#8 = encode (.nWait false) ∧ 0x17#8 &&& 0xFC#8 = 0x14#8 ∧ 0x1B#8 &&& 0xFC#8 = 0x18#8 ∧
    0x1F#8 &&& 0xFC#8 = 0x1C#8 ∧ 0x23#8 &&& 0xFC#8 = 0x20#8 ∧ 0x27#8 &&& 0xFC#8 = 0x24#8 ∧
    0x7F#8 &&& 0xC0#8 = 0x40#8 ∧ 0xBF#8 &&& 0xC0#8 = 0x80#8 ∧ 0xFF#8 &&& 0xC0#8 = 0xC0#8 := by decide

theorem witness_NFfCopiesTheFfLevel :
    (∃ t, exec .nSel { base with ph := .nSel } = .next t ∧ (∀ f, Instr.nSel ≠ .nFf f) ∧ Instr.nSel ≠ .reset) ∧
    ∃ u v, exec (.nFf true) { base with tf := true } = .next u ∧ exec .tickSvc u = .next v :=
  ⟨⟨_, rfl, by simp, by simp⟩, _, _, rfl, rfl⟩

theorem witness_NTestTogglesTestModeOnPress :
    (∃ u v, exec (.nTest true) { base with ph := .nTest } = .next u ∧ runOps [.tickReq, .nWait true, .tickSvc] u = .next v) ∧
    Instr.reset ∉ [Instr.tickReq, .nWait true, .tickSvc] ∧ Instr.nWait false ∉ [Instr.tickReq, .nWait true, .tickSvc] ∧
    stActive { base with ph := .drive, sel := .chase } = true ∧ stActive { base with ph := .stHead } = true :=
  ⟨⟨_, _, rfl, rfl⟩, by decide, by decide, rfl, rfl⟩

theorem witness_NWaitHoldsUntilRelease : ({ base with ph := .nWait, tf := true } : State).ph = .nWait ∧
    ({ base with ph := .nWait, tf := true } : State).tf = true ∧ base.ie = true := by decide

theorem witness_SnapDiMasksTheTick : Inv { base with ph := .snapDi, tf := true } ∧
    ∃ u, runOps [.snapDi, .tickReq, .snapRd] { base with ph := .snapDi, tf := true } = .next u ∧
      Instr.reset ∉ [Instr.tickReq, .snapRd] ∧ Instr.snapEi ∉ [Instr.tickReq, .snapRd] :=
  ⟨by constructor <;> decide, _, rfl, by decide, by decide⟩

theorem witness_SnapEiUnmasksTheTick : ({ base with ph := .snapEi, ie := false, tf := true } : State).ph = .snapEi ∧
    ({ base with ph := .snapEi, ie := false, tf := true } : State).tf = true := by decide

theorem witness_TickSvcAdvancesTheCounter :
    ∃ t, p16.w = 65536 ∧ exec .tickSvc { base with tf := true, ffl := true, tc := 65535 } = .next t := ⟨_, rfl, rfl⟩

theorem witness_TickReqSetsTheFiringFlag : ({ base with tf := true } : State).tf = true ∧
    ({ base with ie := false, ph := .snapEi } : State).ie = false ∧
    ({ base with ie := false, ph := .snapEi } : State).ph = .snapEi := by decide

theorem witness_EnabledOperationsCompleteAndOthersHaveNoStep : ¬∃ t, exec .tickSvc base = .next t := by
  rw [exec_of_not_enabled (by decide) rfl]; simp

theorem witness_StepRunsTheDecodedOperation :
    ({ base with events := [0x0E, 0x40] } : State).events = 0x0E#8 :: [0x40#8] ∧ decode 0x0E = .ok (.nTest true) ∧
    ({ base with events := [0x28] } : State).events = 0x28#8 :: [] ∧ 0x28 ≤ (0x28#8).toNat ∧ (0x3F#8).toNat ≤ 0x3F ∧
    base.events = [] := ⟨rfl, rfl, rfl, by decide, by decide, rfl⟩

theorem witness_TraceRunIsOperationRun : decodeTrace [0x80, 0x7F, 0x0A] = .ok [.tickReq, .tickSvc, .nFf false] := rfl

theorem witness_OperationMapAgreesWithTheDecoder : decode 0x27 = .ok .drive ∧ decode 0x40 = .ok .tickSvc := ⟨rfl, rfl⟩

/-! The counter. -/

theorem witness_ServiceAddsOneOrFastMult :
    (({ base with tf := true, tc := 65535 } : State).tc.toNat < p16.w ∧ ({ base with tf := true } : State).ffl = false) ∧
    (({ base with tf := true, tc := 65535, ffl := true } : State).tc.toNat < p16.w ∧
      ({ base with tf := true, ffl := true } : State).ffl = true) ∧
    ∃ t, exec .tickReq base = .next t ∧ Instr.tickReq ≠ .tickSvc ∧ Instr.tickReq ≠ .reset :=
  ⟨by decide, by decide, _, rfl, by simp, by simp⟩

theorem witness_ServiceWrapsModuloW :
    (∃ t, exec .tickSvc { base with cfg := p57, tf := true, tc := 57599 } = .next t) ∧
    (∃ t, exec .tickSvc { base with cfg := p57, tf := true, tc := 57598 } = .next t) ∧ (57599#16).toNat = p57.w - 1 ∧
    (57598#16).toNat < p57.w - 1 ∧
    (∃ t, exec .tickSvc { base with tf := true, ffl := true, tc := 65473 } = .next t) ∧ p16.fastMult = 64 ∧
    (65473#16).toNat = 65473 := ⟨⟨_, rfl⟩, ⟨_, rfl⟩, by decide, by decide, ⟨_, rfl⟩, rfl, by decide⟩

theorem witness_RepeatedTicksAddUp : base.cfg.admissible = true ∧ ({ base with tc := 65535 } : State).tc.toNat < p16.w ∧
    base.ie = true ∧ base.ffl = false := by decide

theorem witness_ServicesMatchRequests :
    (∀ n, ticking.op n ≠ .reset) ∧ (ticking.state 0).tf = false ∧ NoOverrun ticking :=
  ⟨ticking_no_reset, rfl, ticking_noOverrun⟩

theorem witness_CounterTracksRealTime :
    Timetable ticking (fun n => ((n / 3 : Nat) : Rat) / 16) 0 (fun k => 3 * k) ∧ NoOverrun ticking ∧
    (∀ n, ticking.op n ≠ .reset) ∧ (∀ n, (ticking.state n).ffl = false) ∧ (ticking.state 0).tc = 0#16 ∧
    (ticking.state 0).tf = false ∧ 65535 < (ticking.state 0).cfg.w :=
  ⟨ticking_timetable, ticking_noOverrun, ticking_no_reset, fun n => (ticking_states n).2.2.1, rfl, rfl, by decide⟩

/-! The snapshot and the multiplexer. -/

theorem witness_SnapshotReadIsRaceFree : base.cfg.admissible = true ∧ ({ base with ph := .snapDi } : State).ph = .snapDi := by
  decide

theorem witness_CounterFrozenInCriticalSection :
    ∃ t, runOps [.snapDi, .tickReq, .snapRd] { base with ph := .snapDi } = .next t ∧
      Instr.reset ∉ [Instr.tickReq, .snapRd] ∧ Instr.snapEi ∉ [Instr.tickReq, .snapRd] := ⟨_, rfl, by decide, by decide⟩

theorem inv_reading : Inv { base with ph := .snapRd, ie := false, tf := true, tc := 0x0FFF } := by constructor <;> decide

theorem witness_PortsShowTheCounterAtTheSnapshot :
    Inv { base with ph := .snapRd, ie := false, tf := true, tc := 0x0FFF } ∧
    mainOps [.snapRd, .snapEi, .tickSvc, .drive] = [.snapRd, .snapEi, .drive] ∧
    Instr.reset ∉ [Instr.snapRd, .snapEi, .tickSvc, .drive] ∧
    ∃ t, runOps [.snapRd, .snapEi, .tickSvc, .drive] { base with ph := .snapRd, ie := false, tf := true, tc := 0x0FFF } = .next t :=
  ⟨inv_reading, rfl, by decide, _, rfl⟩

theorem witness_MuxReadsTheTables : p16.admissible = true ∧ p57.admissible = true := by decide

theorem witness_IndicesStayInBounds :
    (1 ≤ p16.div ∧ 1 ≤ p16.rate ∧ 1 ≤ { p16 with selftest := walkingOne 16 }.n ∧ { p16 with selftest := walkingOne 16 }.n ≤ 16) ∧
    p57.admissible = true ∧ (57599#16).toNat < p57.w := by decide

theorem witness_drive_sources : base.cfg.admissible = true ∧ ({ base with ph := .drive } : State).sel = .sched ∧
    ({ base with ph := .drive, sel := .allon } : State).sel = .allon ∧
    ({ base with ph := .drive, sel := .chase } : State).sel = .chase ∧
    ({ base with ph := .drive, sel := .strobe } : State).sel = .strobe ∧ 1 ≤ p16.div ∧ p16.div = 4096 := by decide

theorem witness_AllOnPassDrivesTheConstant : base.cfg.admissible = true ∧
    ({ base with tm := true, tf := true, tc := 65535 } : State).tm = true ∧
    ({ base with tm := true, tf := true, tc := 65535 } : State).tc.toNat < p16.w := by decide

theorem witness_ChaseIndexCyclesBetweenWraps : p16.admissible = true ∧ (65535#16).toNat = (65519#16).toNat + p16.rate ∧
    (65535#16).toNat = (65375#16).toNat + p16.n * p16.rate ∧ p16.rate ∣ p16.w ∧ p57.rate ∣ p57.w ∧ p57.n ∣ p57.w / p57.rate ∧
    ¬p16.n ∣ p16.w / p16.rate ∧ { p16 with rate := 1000 }.admissible = true ∧ ¬1000 ∣ p16.w := by decide

theorem witness_StrobeAlternatesEverySecond : p16.admissible = true ∧ (65535#16).toNat = (65519#16).toNat + p16.rate ∧
    p16.rate ∣ p16.w ∧ 2 ∣ p16.w / p16.rate ∧ { p16 with rate := 1000 }.admissible = true ∧ ¬1000 ∣ p16.w := by decide

/-! The tick interrupt and the sequencer. -/

theorem witness_NoOperationFaults : base.cfg.admissible = true ∧ enabled .tickReq base = true ∧
    enabled (.nFf true) base = true := by decide

theorem witness_TickMaskedOnlyInTheSnapshot :
    (∃ t, exec .snapDi { base with ph := .snapDi } = .next t) ∧ (∃ t, exec .snapEi { base with ph := .snapEi } = .next t) ∧
    (∃ t, exec .reset { base with ie := false } = .next t) ∧ (∃ t, exec .tickReq base = .next t) ∧
    Inv { base with ph := .snapRd, ie := false, tf := true, tc := 0x0FFF } ∧ Inv { base with ph := .nWait, tf := true } :=
  ⟨⟨_, rfl⟩, ⟨_, rfl⟩, ⟨_, rfl⟩, ⟨_, rfl⟩, inv_reading, by constructor <;> decide⟩

theorem witness_tick_taken : ∃ t, exec .tickSvc { base with tf := true, ph := .nWait } = .next t := ⟨_, rfl⟩

theorem witness_PhaseGraphHasTheseEdgesOnly :
    (∃ t, exec (.nWait true) { base with ph := .nWait } = .next t) ∧ (∃ t, exec .tickSvc { base with tf := true } = .next t) ∧
    (∃ t, exec .tickReq base = .next t) ∧ ∃ t, exec .reset base = .next t := ⟨⟨_, rfl⟩, ⟨_, rfl⟩, ⟨_, rfl⟩, _, rfl⟩

theorem witness_RegistersHaveTheirOnlyWriters :
    (∃ t, exec .tickSvc { base with tf := true } = .next t ∧ t.tc ≠ base.tc) ∧
    (∃ t, exec .snapRd { base with ph := .snapRd, tc := 5 } = .next t ∧ t.snap ≠ base.snap) ∧
    (∃ t, exec (.nFf true) base = .next t ∧ t.ffl ≠ base.ffl) ∧
    (∃ t, exec (.nTest true) { base with ph := .nTest } = .next t ∧ t.tm ≠ base.tm) ∧
    (∃ t, exec .snapDi { base with ph := .snapDi } = .next t ∧ t.ie ≠ base.ie ∧ t.ph ≠ .snapDi) ∧
    (∃ t, exec .tickReq base = .next t ∧ t.tf ≠ base.tf) ∧
    (∃ t, exec (.stSel true) { base with ph := .stSel } = .next t ∧ t.sel ≠ base.sel) ∧
    ∃ t, exec .drive { base with ph := .drive } = .next t ∧ (t.pa, t.pb) ≠ (base.pa, base.pb) ∧ t.hist ≠ base.hist :=
  ⟨⟨_, rfl, by decide⟩, ⟨_, rfl, by decide⟩, ⟨_, rfl, by decide⟩, ⟨_, rfl, by decide⟩, ⟨_, rfl, by decide⟩, ⟨_, rfl, by decide⟩,
   ⟨_, rfl, by decide⟩, _, rfl, by decide⟩

theorem witness_ContextsShareOnlyTheSharedRegisters :
    (∃ t, exec .drive { base with ph := .drive } = .next t) ∧ Instr.drive.agent = .main ∧ Instr.drive ≠ .snapRd ∧
    ∃ t, exec .tickSvc { base with tf := true } = .next t := ⟨⟨_, rfl⟩, rfl, by decide, _, rfl⟩

theorem witness_OutputsHoldBetweenDrives :
    (∃ t, exec (.nWait true) { base with ph := .nWait } = .next t) ∧ (∃ t, exec .drive { base with ph := .drive } = .next t) ∧
    ∃ t, exec .reset base = .next t := ⟨⟨_, rfl⟩, ⟨_, rfl⟩, _, rfl⟩

theorem witness_SelfTestIsOneWay :
    (∃ t, exec (.stHead false) { base with ph := .stHead } = .next t) ∧
    stActive { base with sel := .strobe } = false ∧
    ∃ t, runOps [.nFf true, .tickReq, .nTest false, .nSel, .snapDi, .snapRd, .snapEi] { base with sel := .strobe } = .next t ∧
      t.ph = .drive := ⟨⟨_, rfl⟩, rfl, _, rfl, rfl⟩

theorem witness_FastForwardIsDeadBeforeTheNormalLoop :
    ∃ s t, exec .reset base = .next s ∧ runOps [.tickReq, .tickSvc, .stHead true] s = .next t ∧
      (∀ f, Instr.nFf f ∉ [Instr.tickReq, .tickSvc, .stHead true]) ∧ Instr.reset ∉ [Instr.tickReq, .tickSvc, .stHead true] :=
  ⟨_, _, rfl, rfl, by decide, by decide⟩

theorem witness_NoScheduleBeforeFfIsReleased :
    ∃ s t, exec .reset base = .next s ∧ runOps (expand (.passSt true) ++ expand (.passSt false)) s = .next t ∧
      Instr.stHead false ∉ expand (.passSt true) ++ expand (.passSt false) := ⟨_, _, rfl, rfl, by decide⟩

theorem witness_EveryPassDrivesExactlyOnce :
    ∃ t, runOps (expand (.passSched false) ++ [.nFf true]) base = .next t ∧
      Instr.reset ∉ expand (.passSched false) ++ [.nFf true] := ⟨_, rfl, by decide⟩

theorem witness_SelectIsWrittenInTheSamePass :
    base.ph = .nFf ∧ ∃ t, runOps [.nFf false, .nTest true, .nWait false, .nSel] base = .next t ∧
      Instr.reset ∉ [Instr.nFf false, .nTest true, .nWait false, .nSel] ∧ resolvedPhase t.ph = true ∧ t.ph = .drive ∧
      t.sel = .allon := ⟨rfl, _, rfl, by decide, rfl, rfl, rfl⟩

theorem witness_PassesDriveTheirSource : base.cfg.admissible = true ∧ base.ph = .nFf ∧ base.tm = false ∧
    ({ base with tm := true } : State).tm = true ∧ ({ base with ph := .stHead } : State).ph = .stHead := by decide

/-! The debounce. -/

theorem witness_OneToggleWhateverTheHold :
    (∃ t, runOps [.nTest true, .tickReq, .nWait true, .nWait false] { base with ph := .nTest } = .next t ∧
      mainOps [.nTest true, .tickReq, .nWait true, .nWait false] =
        .nTest true :: List.replicate 1 (.nWait true) ++ [.nWait false]) ∧
    (∃ t, runOps [.nTest true, .nWait false, .nSel, .drive] { base with ph := .nTest } = .next t ∧
      mainOps [.nTest true, .nWait false, .nSel, .drive] =
        .nTest true :: List.replicate 0 (.nWait true) ++ [.nWait false, .nSel, .drive]) ∧
    ∃ t, runOps [.nTest true, .nWait false, .nSel, .snapDi, .snapRd, .snapEi, .drive] { base with ph := .nTest, tm := true } =
      .next t := ⟨⟨_, rfl, rfl⟩, ⟨_, rfl, rfl⟩, _, rfl⟩

theorem witness_CleanPressTogglesExactlyOnce :
    pressed.op 0 = .reset ∧ NoPowerCycle pressed ∧ CleanPress pressed pressOf ∧ ∃ n, pressOf n = some 0 :=
  ⟨rfl, fun n hn => by
    match n, hn with
    | 1, _ => decide
    | 2, _ => decide
    | 3, _ => decide
    | _ + 4, _ => exact fun h => Instr.noConfusion h, press_clean, 3, rfl⟩

theorem witness_BusyWaitFreezesTheMainContext :
    ({ base with ph := .nWait, tc := 65535 } : State).tc.toNat < p16.w ∧
    ∃ t, runOps [.tickReq, .nWait true, .tickSvc] { base with ph := .nWait, tc := 65535 } = .next t ∧
      Instr.reset ∉ [Instr.tickReq, .nWait true, .tickSvc] ∧ Instr.nWait false ∉ [Instr.tickReq, .nWait true, .tickSvc] :=
  ⟨by decide, _, rfl, by decide, by decide⟩

/-! Invariants and whole executions. -/

theorem witness_EveryStepKeepsTheInvariant :
    Inv { base with ph := .nWait, events := [0x12] } ∧ ∃ t, step { base with ph := .nWait, events := [0x12] } = .next t :=
  ⟨by constructor <;> decide, _, rfl⟩

theorem witness_WeakFairnessServesEveryTick :
    Inv (ticking.state 0) ∧ FMain ticking ∧ FTick ticking ∧ (ticking.state 1).tf = true :=
  ⟨inv_waiting, ticking_fMain, fun n _ => ticking_served n, rfl⟩

theorem witness_StrongFairnessServesEveryTick :
    Inv (ticking.state 0) ∧ FMain ticking ∧ FTickStrong ticking ∧ (ticking.state 1).tf = true :=
  ⟨inv_waiting, ticking_fMain, fun n _ => ticking_served n, rfl⟩

theorem witness_FfAtPowerUpDecidesSelfTest (f : Bool) :
    FfBoot (boot f) (bootPins f) ∧ FirstHeadAfterReset (boot f) 0 1 ∧ (bootPins f).ff 0 = f :=
  ⟨fun _ _ _ _ _ _ => rfl, ⟨rfl, by omega, rfl, fun k h1 h2 => by omega⟩, rfl⟩

theorem witness_ViewsShowTheControlState :
    Inv { base with ph := .nWait, tm := true } ∧ stActive { base with ph := .nWait, tm := true } = false ∧
    Inv { base with ph := .drive } ∧ stActive { base with ph := .drive } = false :=
  ⟨by constructor <;> decide, rfl, by constructor <;> decide, rfl⟩

end Sys2Proof.Tests
end

section
/-! PROOFS. The tick counter (40_tick.md): what a service does to `TC`, and that no other operation but `RESET` writes it. -/

namespace Sys2Proof.Machine

@[simp] theorem tickIncrement_false (c : Cfg) : tickIncrement c false = 1 := rfl

@[simp] theorem tickIncrement_true (c : Cfg) : tickIncrement c true = c.fastMult := rfl

theorem tickIncrement_pos {c : Cfg} (hc : c.admissible = true) (ffl : Bool) : 1 ≤ tickIncrement c ffl := by
  obtain ⟨-, -, ⟨hf, -⟩, -⟩ := admissible_iff.1 hc
  cases ffl
  · simp
  · simpa using hf

/-- The wrap law of a served tick (40_tick.md R66). -/
theorem takeTick_tc_toNat {s : State} (hc : s.cfg.admissible = true) (ht : s.tc.toNat < s.cfg.w) :
    (takeTick s).tc.toNat = (s.tc.toNat + tickIncrement s.cfg s.ffl) % s.cfg.w := by
  rw [takeTick_tc]
  exact advance_toNat hc ht (tickIncrement_le hc s.ffl)

theorem takeTick_tc_le {s : State} (hc : s.cfg.admissible = true) (ht : s.tc.toNat < s.cfg.w) :
    (takeTick s).tc.toNat ≤ s.cfg.w - 1 := by
  rw [takeTick_tc_toNat hc ht]
  exact Nat.le_pred_of_lt (Nat.mod_lt _ (by omega))

/-- "`TC + inc < 2W`", so one conditional subtraction is exact (40_tick.md R66). -/
theorem tc_add_tickIncrement_lt {s : State} (hc : s.cfg.admissible = true) (ht : s.tc.toNat < s.cfg.w) :
    s.tc.toNat + tickIncrement s.cfg s.ffl < 2 * s.cfg.w := by
  have := tickIncrement_le hc s.ffl
  omega

/-- The positive sum is below `2W`, so `W` is the only multiple of `W` it can be (40_tick.md R66). -/
theorem takeTick_tc_eq_zero_iff {s : State} (hc : s.cfg.admissible = true) (ht : s.tc.toNat < s.cfg.w) :
    (takeTick s).tc.toNat = 0 ↔ s.tc.toNat + tickIncrement s.cfg s.ffl = s.cfg.w := by
  have hpos := tickIncrement_pos hc s.ffl
  have hlt := tc_add_tickIncrement_lt hc ht
  rw [takeTick_tc_toNat hc ht]
  constructor
  · intro h
    obtain hsum | hsum := Nat.lt_or_ge (s.tc.toNat + tickIncrement s.cfg s.ffl) s.cfg.w
    · rw [Nat.mod_eq_of_lt hsum] at h
      omega
    · rw [Nat.mod_eq_sub_mod hsum, Nat.mod_eq_of_lt (by omega)] at h
      omega
  · intro h
    rw [h, Nat.mod_self]

/-- A service in the natural mode of a counter that is not at its largest value does not wrap. -/
theorem takeTick_tc_succ {s : State} (hc : s.cfg.admissible = true) (hffl : s.ffl = false)
    (ht : s.tc.toNat < s.cfg.w - 1) : (takeTick s).tc.toNat = s.tc.toNat + 1 := by
  rw [takeTick_tc_toNat hc (by omega), hffl, tickIncrement_false, Nat.mod_eq_of_lt (by omega)]

/-- In the natural mode the value after `W - 1` is 0 (40_tick.md R66). -/
theorem takeTick_tc_wrap {s : State} (hc : s.cfg.admissible = true) (hw : s.tc.toNat < s.cfg.w) (hffl : s.ffl = false)
    (ht : s.tc.toNat = s.cfg.w - 1) : (takeTick s).tc.toNat = 0 := by
  rw [takeTick_tc_eq_zero_iff hc hw, hffl, tickIncrement_false]
  omega

/-- A step of `TICK_SVC` is a served tick. -/
theorem exec_tickSvc_next {s t : State} (h : exec .tickSvc s = .next t) : s.cfg.admissible = true ∧ t = takeTick s := by
  obtain ⟨hc, -, ht⟩ := exec_next_iff.1 h
  exact ⟨hc, ht.symm⟩

/-- `TC` has no writer but `TICK_SVC` and `RESET` (40_tick.md R65). -/
theorem effect_tc {i : Instr} (s : State) (hsvc : i ≠ .tickSvc) (hreset : i ≠ .reset) : (effect i s).tc = s.tc := by
  cases i with
  | tickSvc => exact absurd rfl hsvc
  | reset => exact absurd rfl hreset
  | nTest t => cases t <;> rfl
  | nSel => simp only [effect]; split <;> rfl
  | stHead _ | stSel _ | nFf _ | nWait _ | snapDi | snapRd | snapEi | drive | tickReq => rfl

/-- An operation other than `TICK_SVC` and `RESET` leaves `TC` as it was (40_tick.md R65). -/
theorem exec_tc {i : Instr} {s t : State} (h : exec i s = .next t) (hsvc : i ≠ .tickSvc) (hreset : i ≠ .reset) :
    t.tc = s.tc := by
  obtain ⟨-, -, rfl⟩ := exec_next_iff.1 h
  exact effect_tc s hsvc hreset

/-- Settles O23: an enabled service takes a step by the wrap law, and no other effect but that of `RESET` writes `TC`. -/
theorem serviceAddsOneOrFastMult : Obligations.ServiceAddsOneOrFastMult := by
  unfold Obligations.ServiceAddsOneOrFastMult
  refine ⟨fun s hc ht htf hie => ?_, fun _ _ _ => exec_tc⟩
  have henabled : enabled .tickSvc s = true := by simp [htf, hie]
  have hwrap := takeTick_tc_toNat hc ht
  refine ⟨takeTick s, exec_of_enabled hc henabled, fun hffl => ?_, fun hffl => ?_⟩
  · rwa [hffl] at hwrap
  · rwa [hffl] at hwrap

/-- Settles O24: the wrap law of a served tick, with the bound `TC + inc < 2W` and its consequences at `W - 1` and 0. -/
theorem serviceWrapsModuloW : Obligations.ServiceWrapsModuloW := by
  unfold Obligations.ServiceWrapsModuloW
  constructor
  · intro s t ht h
    obtain ⟨hc, rfl⟩ := exec_tickSvc_next h
    exact ⟨takeTick_tc_toNat hc ht, takeTick_tc_le hc ht, tc_add_tickIncrement_lt hc ht, takeTick_tc_wrap hc ht,
      takeTick_tc_succ hc, takeTick_tc_eq_zero_iff hc ht⟩
  · intro s t hw hfast hffl htc h
    obtain ⟨hc, rfl⟩ := exec_tickSvc_next h
    rw [takeTick_tc_toNat hc (by omega), hffl, tickIncrement_true, hfast, htc, hw]

end Sys2Proof.Machine
end

section
/-! PROOFS. The output multiplexer (44_output_mux.md): the bounds of its indices, the table entries it reads, what `DRIVE` writes
from them, and the chase index within and across a wrap of the counter. -/

namespace Sys2Proof.Machine

/-! ### Every index is in its table -/

theorem hour_lt (c : Cfg) (snap : Word) : hour c snap < 16 := Nat.mod_lt _ (by decide)

theorem strobeParity_lt (c : Cfg) (snap : Word) : strobeParity c snap < 2 := Nat.mod_lt _ (by decide)

theorem chaseIndex_lt {c : Cfg} (hc : c.admissible = true) (snap : Word) : chaseIndex c snap < c.n := by
  obtain ⟨-, -, -, -, -, hn, -⟩ := admissible_iff.1 hc
  exact Nat.mod_lt _ hn

/-! ### The word of each source is an entry of its table (44_output_mux.md R92) -/

/-- An entry in the table is the one that a read with a default gives. -/
theorem getElem?_eq_some_getD {table : List Word} {k : Nat} (h : k < table.length) :
    table[k]? = some (table.getD k 0#16) := by
  rw [List.getElem?_eq_getElem h, List.getD_eq_getElem _ _ h]

theorem sched_getElem?_hour (c : Cfg) (snap : Word) : c.sched.toList[hour c snap]? = some (mux c .sched snap) := by
  have hk := hour_lt c snap
  have hread : mux c .sched snap = c.sched.toList.getD (hour c snap) 0#16 := romRead_sched c hk
  rw [hread, getElem?_eq_some_getD (by rwa [Vector.length_toList])]

theorem mux_allon (c : Cfg) (snap : Word) : mux c .allon snap = c.allon := romRead_allon c

theorem selftest_getElem?_chaseIndex {c : Cfg} (hc : c.admissible = true) (snap : Word) :
    c.selftest[chaseIndex c snap]? = some (mux c .chase snap) := by
  obtain ⟨-, -, -, -, -, -, hn⟩ := admissible_iff.1 hc
  have hk := chaseIndex_lt hc snap
  have hread : mux c .chase snap = c.selftest.getD (chaseIndex c snap) 0#16 := romRead_selftest c (by omega)
  rw [hread, getElem?_eq_some_getD hk]

theorem knuckle_getElem?_strobeParity (c : Cfg) (snap : Word) :
    c.knuckle.toList[strobeParity c snap]? = some (mux c .strobe snap) := by
  have hk := strobeParity_lt c snap
  have hread : mux c .strobe snap = c.knuckle.toList.getD (strobeParity c snap) 0#16 := romRead_knuckle c hk
  rw [hread, getElem?_eq_some_getD (by rwa [Vector.length_toList])]

/-- Settles O31: each address is that of the source by definition, and the word there is the entry of the source's table. -/
theorem muxReadsTheTables : Obligations.MuxReadsTheTables := by
  unfold Obligations.MuxReadsTheTables
  intro c snap hc
  exact ⟨⟨rfl, sched_getElem?_hour c snap⟩, ⟨rfl, mux_allon c snap⟩, ⟨rfl, selftest_getElem?_chaseIndex hc snap⟩,
    ⟨rfl, knuckle_getElem?_strobeParity c snap⟩⟩

/-! ### What `DRIVE` writes -/

/-- At its phase `DRIVE` takes a step and the pair it writes is the word the multiplexer reads, low byte at port A, as one event
(44_output_mux.md R91). -/
theorem exec_drive_writes {s : State} (hc : s.cfg.admissible = true) (hph : s.ph = .drive) :
    ∃ t, exec .drive s = .next t ∧ t.pa = portAByte (mux s.cfg s.sel s.snap) ∧
      t.pb = portBByte (mux s.cfg s.sel s.snap) ∧ t.hist = s.hist ++ [(t.pa, t.pb)] := by
  have henabled : enabled .drive s = true := (enabled_main_iff rfl).2 (congrArg some hph.symm)
  exact ⟨effect .drive s, exec_of_enabled hc henabled, rfl, rfl, rfl⟩

/-! ### The chase index in time (44_output_mux.md R95) -/

/-- `k * RATE` units later it is `k` seconds later (41_virtual_clock.md R73). -/
theorem seconds_add_mul_rate {c : Cfg} {u v : Word} {k : Nat} (hc : c.admissible = true)
    (h : v.toNat = u.toNat + k * c.rate) : seconds c v = seconds c u + k := by
  obtain ⟨-, -, -, ⟨-, hrate⟩, -⟩ := admissible_iff.1 hc
  rw [seconds, h, Nat.add_mul_div_right _ _ hrate, seconds]

theorem chaseIndex_add_mul_rate {c : Cfg} {u v : Word} {k : Nat} (hc : c.admissible = true)
    (h : v.toNat = u.toNat + k * c.rate) : chaseIndex c v = (chaseIndex c u + k) % c.n := by
  rw [chaseIndex, seconds_add_mul_rate hc h, chaseIndex, Nat.mod_add_mod]

theorem chaseIndex_zero (c : Cfg) : chaseIndex c 0#16 = 0 := by simp [chaseIndex, seconds]

/-- The chase index at the counter's largest value. -/
theorem chaseIndex_lastValue {c : Cfg} (hc : c.admissible = true) :
    chaseIndex c (BitVec.ofNat 16 (c.w - 1)) = (c.w - 1) / c.rate % c.n := by
  rw [chaseIndex, seconds, lastValue_toNat hc]

/-- The restart at 0 is the successor of the last index exactly when the seconds between two wraps, the last one perhaps
shorter, are a multiple of `N` (70_reset_and_hazards.md R126; log 22). -/
theorem chaseIndex_restart_iff {c : Cfg} (hc : c.admissible = true) :
    (chaseIndex c (BitVec.ofNat 16 (c.w - 1)) + 1) % c.n = chaseIndex c 0#16 ↔ c.n ∣ (c.w - 1) / c.rate + 1 := by
  rw [chaseIndex_lastValue hc, chaseIndex_zero, Nat.mod_add_mod, Nat.dvd_iff_mod_eq_zero]

/-- The number of seconds between two wraps when `RATE` divides `W`. -/
theorem lastSecond_succ_of_dvd {c : Cfg} (hc : c.admissible = true) (h : c.rate ∣ c.w) :
    (c.w - 1) / c.rate + 1 = c.w / c.rate := by
  obtain ⟨-, ⟨hw, -⟩, -⟩ := admissible_iff.1 hc
  have hsucc : c.w - 1 + 1 = c.w := Nat.sub_add_cancel hw
  rw [← Nat.succ_div_of_dvd (by rwa [hsucc]), hsucc]

/-- The last second when `RATE` does not divide `W`: it is cut short by the wrap. -/
theorem lastSecond_of_not_dvd {c : Cfg} (hc : c.admissible = true) (h : ¬c.rate ∣ c.w) :
    (c.w - 1) / c.rate = c.w / c.rate := by
  obtain ⟨-, ⟨hw, -⟩, -⟩ := admissible_iff.1 hc
  have hsucc : c.w - 1 + 1 = c.w := Nat.sub_add_cancel hw
  rw [← Nat.succ_div_of_not_dvd (by rwa [hsucc]), hsucc]

/-- Settles O35: `DRIVE` writes the entry at the chase index, which counts seconds modulo `N`; across a wrap it restarts at 0, and
that is no jump exactly when the seconds between two wraps are a multiple of `N`. -/
theorem chaseIndexCyclesBetweenWraps : Obligations.ChaseIndexCyclesBetweenWraps := by
  unfold Obligations.ChaseIndexCyclesBetweenWraps
  refine ⟨fun s hc hph hsel => ?_, fun c u v hc => ⟨fun h => ?_, fun h => ?_⟩, fun c hc => ?_, by decide, by decide⟩
  · obtain ⟨t, ht, hpa, hpb, hhist⟩ := exec_drive_writes hc hph
    rw [hsel] at hpa hpb
    exact ⟨t, mux s.cfg .chase s.snap, ht, selftest_getElem?_chaseIndex hc s.snap, hpa, hpb, hhist⟩
  · exact chaseIndex_add_mul_rate hc (by rwa [Nat.one_mul])
  · rw [chaseIndex_add_mul_rate hc h, Nat.add_mod_right, Nat.mod_eq_of_lt (chaseIndex_lt hc u)]
  · have hrestart := chaseIndex_restart_iff hc
    refine ⟨chaseIndex_zero c, chaseIndex_lastValue hc, hrestart, fun hdvd => ?_, fun hdvd => ?_⟩
    · rwa [lastSecond_succ_of_dvd hc hdvd] at hrestart
    · rwa [lastSecond_of_not_dvd hc hdvd] at hrestart

end Sys2Proof.Machine
end

section
/-! PROOFS. The tick interrupt (60_exceptions.md): there is no fault to raise, when the tick can be taken, which operations write
`IE`, and what taking the tick leaves to the main sequencer. -/

namespace Sys2Proof.Machine

/-- An operation has a step exactly when the configuration is admissible and it is enabled (30_encoding.md R50). -/
theorem exists_exec_next_iff {i : Instr} {s : State} :
    (∃ t, exec i s = .next t) ↔ s.cfg.admissible = true ∧ enabled i s = true := by
  constructor
  · rintro ⟨t, h⟩
    obtain ⟨hc, he, -⟩ := exec_next_iff.1 h
    exact ⟨hc, he⟩
  · rintro ⟨hc, he⟩
    exact ⟨effect i s, exec_of_enabled hc he⟩

/-- "There are none" (60_exceptions.md R100). -/
theorem isEmpty_fault : IsEmpty Fault := ⟨nofun⟩

/-- Settles O37: no fault exists to be raised, and an enabled operation has its effect as a step. -/
theorem noOperationFaults : Obligations.NoOperationFaults := by
  unfold Obligations.NoOperationFaults
  exact ⟨fun _ _ r => isEmpty_fault.elim r, fun _ _ hc he => exists_exec_next_iff.2 ⟨hc, he⟩, isEmpty_fault⟩

/-! ### When the tick is masked -/

/-- With an admissible configuration the tick can be taken exactly when it is pending and not masked (60_exceptions.md R103). -/
theorem exists_exec_tickSvc_iff {s : State} (hc : s.cfg.admissible = true) :
    (∃ t, exec .tickSvc s = .next t) ↔ s.tf = true ∧ s.ie = true := by
  rw [exists_exec_next_iff, enabled_tickSvc, Bool.and_eq_true, and_iff_right hc]

/-- `IE` has no writer but `SNAP_DI`, `SNAP_EI` and `RESET` (60_exceptions.md R103). -/
theorem effect_ie {i : Instr} (s : State) (hdi : i ≠ .snapDi) (hei : i ≠ .snapEi) (hreset : i ≠ .reset) :
    (effect i s).ie = s.ie := by
  cases i with
  | snapDi => exact absurd rfl hdi
  | snapEi => exact absurd rfl hei
  | reset => exact absurd rfl hreset
  | nTest t => cases t <;> rfl
  | nSel => simp only [effect]; split <;> rfl
  | stHead _ | stSel _ | nFf _ | nWait _ | snapRd | drive | tickSvc | tickReq => rfl

/-- Under the invariant a pending tick is masked exactly inside the snapshot (60_exceptions.md R103). -/
theorem tick_masked_iff {s : State} (hinv : Inv s) (htf : s.tf = true) :
    (¬∃ t, exec .tickSvc s = .next t) ↔ s.ph = .snapRd ∨ s.ph = .snapEi := by
  rw [exists_exec_tickSvc_iff hinv.admissible, and_iff_right htf, Bool.not_eq_true]
  exact hinv.maskWindow

/-- Settles O38: each step is its effect, whose value of `IE` is read off; the invariant says where `IE` is 0. -/
theorem tickMaskedOnlyInTheSnapshot : Obligations.TickMaskedOnlyInTheSnapshot := by
  unfold Obligations.TickMaskedOnlyInTheSnapshot
  refine ⟨fun s hc => exists_exec_tickSvc_iff hc, fun s t h => ?_, fun s t h => ?_, fun s t h => ?_,
    fun i s t h hdi hei hreset => ?_, fun s hinv htf => tick_masked_iff hinv htf⟩
  all_goals obtain ⟨-, -, rfl⟩ := exec_next_iff.1 h
  · rfl
  · rfl
  · rfl
  · exact effect_ie s hdi hei hreset

/-! ### What taking the tick leaves alone -/

/-- A served tick leaves the main sequencer where it was (60_exceptions.md R105). -/
theorem enabled_takeTick_of_main {i : Instr} (s : State) (hi : i.agent = .main) :
    enabled i (takeTick s) = true ↔ enabled i s = true := by
  rw [enabled_main_iff hi, enabled_main_iff hi, takeTick_ph]

/-- Settles O39: the state after the service is the served tick, which keeps the configuration and the phase, so the same main
operations have a step. -/
theorem tickEntrySavesNothing : Obligations.TickEntrySavesNothing := by
  unfold Obligations.TickEntrySavesNothing
  intro s t h
  obtain ⟨-, rfl⟩ := exec_tickSvc_next h
  refine ⟨takeTick_eq s, fun i hi => ?_⟩
  rw [exists_exec_next_iff, exists_exec_next_iff, takeTick_cfg, enabled_takeTick_of_main s hi]

end Sys2Proof.Machine
end

section
/-! PROOFS. Steps and runs: when an operation has a step, the fields an effect leaves alone, what ticks between two main
operations can change, and inductions over runs. -/

namespace Sys2Proof.Machine

variable {i : Instr} {is ms : List Instr} {s t u : State}

/-! ### When an operation has a step -/

theorem agent_of_phase {p : Phase} (h : i.phase = some p) : i.agent = .main := by
  cases i with
  | tickSvc | tickReq | reset => cases h
  | stHead _ | stSel _ | nFf _ | nTest _ | nWait _ | nSel | snapDi | snapRd | snapEi | drive => rfl

theorem phase_of_agent_main (h : i.agent = .main) : ∃ p, i.phase = some p := by
  cases i with
  | tickSvc | tickReq | reset => cases h
  | stHead _ | stSel _ | nFf _ | nTest _ | nWait _ | nSel | snapDi | snapRd | snapEi | drive => exact ⟨_, rfl⟩

/-- The enabling conditions of all operations (00_scope.md R9, 30_encoding.md R50). -/
theorem enabled_iff : enabled i s = true ↔
    i = .tickReq ∨ i = .reset ∨ (i = .tickSvc ∧ s.tf = true ∧ s.ie = true) ∨ i.phase = some s.ph := by
  cases i with
  | tickSvc | tickReq | reset => simp [Instr.phase]
  | stHead _ | stSel _ | nFf _ | nTest _ | nWait _ | nSel | snapDi | snapRd | snapEi | drive =>
    simp [enabled, Instr.agent]

theorem exec_of_phase {p : Phase} (hc : s.cfg.admissible = true) (hi : i.phase = some p) (hp : s.ph = p) :
    exec i s = .next (effect i s) :=
  exec_of_enabled hc ((enabled_main_iff (agent_of_phase hi)).2 (hp ▸ hi))

theorem exec_of_other_phase {p : Phase} (hc : s.cfg.admissible = true) (hi : i.phase = some p) (hp : s.ph ≠ p) :
    exec i s = .refused (.notEnabled i) := by
  refine exec_of_not_enabled hc (Bool.eq_false_iff.2 fun he => hp ?_)
  rw [enabled_main_iff (agent_of_phase hi), hi] at he
  exact (Option.some.inj he).symm

theorem exec_tickReq (hc : s.cfg.admissible = true) : exec .tickReq s = .next (s.setTf true) := exec_of_enabled hc rfl

theorem exec_reset (hc : s.cfg.admissible = true) : exec .reset s = .next (powerOn s) := exec_of_enabled hc rfl

theorem exec_tickSvc (hc : s.cfg.admissible = true) (htf : s.tf = true) (hie : s.ie = true) :
    exec .tickSvc s = .next (takeTick s) :=
  exec_of_enabled hc (by simp [htf, hie])

theorem exec_tickSvc_of_masked (hc : s.cfg.admissible = true) (h : ¬(s.tf = true ∧ s.ie = true)) :
    exec .tickSvc s = .refused (.notEnabled .tickSvc) :=
  exec_of_not_enabled hc (Bool.eq_false_iff.2 fun he => h (by simpa using he))

theorem exec_eq_effect (h : exec i s = .next t) : t = effect i s := (exec_next_iff.1 h).2.2.symm

theorem exec_admissible (h : exec i s = .next t) : s.cfg.admissible = true := (exec_next_iff.1 h).1

/-- A step of a main operation is taken at its phase. -/
theorem exec_phase {p : Phase} (h : exec i s = .next t) (hi : i.phase = some p) : s.ph = p := by
  have he := (exec_next_iff.1 h).2.1
  rw [enabled_main_iff (agent_of_phase hi), hi] at he
  exact (Option.some.inj he).symm

/-- A service is taken only where a tick is pending and not masked. -/
theorem exec_tickSvc_flags (h : exec .tickSvc s = .next t) : s.tf = true ∧ s.ie = true := by
  simpa using (exec_next_iff.1 h).2.1

/-! ### The fields an effect leaves alone (10_state.md R16) -/

/-- `N_SEL` writes `SEL` and `PH` only, both as `TM` says (43_mode_sequencer.md R86). -/
theorem effect_nSel (s : State) : effect .nSel s =
    (s.setSel (if s.tm then .allon else .sched)).setPh (if s.tm then .drive else .snapDi) := by
  cases h : s.tm <;> simp [effect, h]

theorem effect_snap (s : State) (hrd : i ≠ .snapRd) (hreset : i ≠ .reset) : (effect i s).snap = s.snap := by
  cases i with
  | snapRd => exact absurd rfl hrd
  | reset => exact absurd rfl hreset
  | nTest t => cases t <;> rfl
  | nSel => rw [effect_nSel]; rfl
  | _ => rfl

theorem effect_ffl (s : State) (hff : ∀ f, i ≠ .nFf f) (hreset : i ≠ .reset) : (effect i s).ffl = s.ffl := by
  cases i with
  | nFf f => exact absurd rfl (hff f)
  | reset => exact absurd rfl hreset
  | nTest t => cases t <;> rfl
  | nSel => rw [effect_nSel]; rfl
  | _ => rfl

theorem effect_tm (s : State) (htest : i ≠ .nTest true) (hreset : i ≠ .reset) : (effect i s).tm = s.tm := by
  cases i with
  | reset => exact absurd rfl hreset
  | nTest t =>
    cases t with
    | true => exact absurd rfl htest
    | false => rfl
  | nSel => rw [effect_nSel]; rfl
  | _ => rfl

theorem effect_tf (s : State) (hreq : i ≠ .tickReq) (hsvc : i ≠ .tickSvc) (hreset : i ≠ .reset) :
    (effect i s).tf = s.tf := by
  cases i with
  | tickReq => exact absurd rfl hreq
  | tickSvc => exact absurd rfl hsvc
  | reset => exact absurd rfl hreset
  | nTest t => cases t <;> rfl
  | nSel => rw [effect_nSel]; rfl
  | _ => rfl

theorem effect_sel (s : State) (hst : ∀ b, i ≠ .stSel b) (hsel : i ≠ .nSel) (hreset : i ≠ .reset) :
    (effect i s).sel = s.sel := by
  cases i with
  | stSel b => exact absurd rfl (hst b)
  | nSel => exact absurd rfl hsel
  | reset => exact absurd rfl hreset
  | nTest t => cases t <;> rfl
  | _ => rfl

theorem effect_ph (s : State) (hmain : i.agent ≠ .main) (hreset : i ≠ .reset) : (effect i s).ph = s.ph := by
  cases i with
  | tickSvc | tickReq => rfl
  | reset => exact absurd rfl hreset
  | _ => exact absurd rfl hmain

theorem effect_hist (s : State) (hdrive : i ≠ .drive) : (effect i s).hist = s.hist := by
  cases i with
  | drive => exact absurd rfl hdrive
  | nTest t => cases t <;> rfl
  | nSel => rw [effect_nSel]; rfl
  | _ => rfl

/-- The output latches have no writer but `DRIVE` and `RESET` (44_output_mux.md R99). -/
theorem effect_latches (s : State) (hdrive : i ≠ .drive) (hreset : i ≠ .reset) :
    (effect i s).pa = s.pa ∧ (effect i s).pb = s.pb := by
  cases i with
  | drive => exact absurd rfl hdrive
  | reset => exact absurd rfl hreset
  | nTest t => cases t <;> exact ⟨rfl, rfl⟩
  | nSel => rw [effect_nSel]; exact ⟨rfl, rfl⟩
  | _ => exact ⟨rfl, rfl⟩

@[simp] theorem effect_events (i : Instr) (s : State) : (effect i s).events = s.events := by
  cases i with
  | nTest t => cases t <;> rfl
  | nSel => rw [effect_nSel]; rfl
  | _ => rfl

/-! ### Induction over runs -/

/-- Induction over a run from its start, for properties of the operations so far and the state reached. `Q` is what is known
of every operation of the run. -/
theorem runOps_snoc_induction {Q : Instr → Prop} {P : List Instr → State → Prop} (hQ : ∀ i ∈ is, Q i) (nil : P [] s)
    (snoc : ∀ is i u v, Q i → P is u → exec i u = .next v → P (is ++ [i]) v) (h : runOps is s = .next t) : P is t := by
  induction is using List.reverseRecOn generalizing t with
  | nil =>
    obtain rfl : s = t := by simpa using h
    exact nil
  | append_singleton is i ih =>
    obtain ⟨u, hu, hi⟩ := runOps_append_next.1 h
    obtain ⟨v, hv, hnil⟩ := runOps_cons_next.1 hi
    obtain rfl : v = t := by simpa using hnil
    exact snoc is i u v (hQ i (by simp)) (ih (fun j hj => hQ j (by simp [hj])) hu) hv

theorem runOps_append_of {js : List Instr} (h : runOps is s = .next t) : runOps (is ++ js) s = runOps js t := by
  induction is generalizing s with
  | nil =>
    obtain rfl : s = t := by simpa using h
    rfl
  | cons i is ih =>
    obtain ⟨u, hu, hrest⟩ := runOps_cons_next.1 h
    rw [List.cons_append, runOps_cons_of hu, ih hrest]

theorem forall_ne_of_notMem {j : Instr} (h : j ∉ is) : ∀ i ∈ is, i ≠ j := fun _ hi => ne_of_mem_of_not_mem hi h

theorem runOps_cfg (h : runOps is s = .next t) : t.cfg = s.cfg :=
  runOps_induction (P := fun u => u.cfg = s.cfg) (fun _ _ _ _ hu hs => (exec_cfg hu).trans hs) h rfl

/-! ### Ticks between two main operations -/

/-- `t` is `s` after some requests and services: `TC` and `TF` alone may differ, and with the tick masked `TC` does not
(60_exceptions.md R105). -/
structure TicksOnly (s t : State) : Prop where
  rest : t = { s with tc := t.tc, tf := t.tf }
  masked : s.ie = false → t.tc = s.tc

namespace TicksOnly

theorem refl (s : State) : TicksOnly s s := ⟨rfl, fun _ => rfl⟩

theorem snap (h : TicksOnly s t) : t.snap = s.snap := (congrArg State.snap h.rest :)
theorem ffl (h : TicksOnly s t) : t.ffl = s.ffl := (congrArg State.ffl h.rest :)
theorem tm (h : TicksOnly s t) : t.tm = s.tm := (congrArg State.tm h.rest :)
theorem ie (h : TicksOnly s t) : t.ie = s.ie := (congrArg State.ie h.rest :)
theorem sel (h : TicksOnly s t) : t.sel = s.sel := (congrArg State.sel h.rest :)
theorem ph (h : TicksOnly s t) : t.ph = s.ph := (congrArg State.ph h.rest :)
theorem pa (h : TicksOnly s t) : t.pa = s.pa := (congrArg State.pa h.rest :)
theorem pb (h : TicksOnly s t) : t.pb = s.pb := (congrArg State.pb h.rest :)
theorem hist (h : TicksOnly s t) : t.hist = s.hist := (congrArg State.hist h.rest :)
theorem cfg (h : TicksOnly s t) : t.cfg = s.cfg := (congrArg State.cfg h.rest :)

theorem trans (h : TicksOnly s t) (h' : TicksOnly t u) : TicksOnly s u := by
  refine ⟨?_, fun hie => (h'.masked (h.ie.trans hie)).trans (h.masked hie)⟩
  have hu := h'.rest
  rw [h.rest] at hu
  exact hu

end TicksOnly

/-- A step that is no `RESET` is a tick or a main operation at its phase. -/
theorem exec_tick_or_main (h : exec i s = .next t) (hreset : i ≠ .reset) :
    (i.phase = none ∧ TicksOnly s t) ∨ (i.phase = some s.ph ∧ t = effect i s) := by
  obtain ⟨-, he, rfl⟩ := exec_next_iff.1 h
  obtain rfl | rfl | ⟨rfl, -, hie⟩ | hp := enabled_iff.1 he
  · exact .inl ⟨rfl, rfl, fun _ => rfl⟩
  · exact absurd rfl hreset
  · exact .inl ⟨rfl, rfl, fun hie' => absurd (hie.symm.trans hie') (by decide)⟩
  · exact .inr ⟨hp, rfl⟩

/-- `t` is reached from `s` by the main operations `ms` in turn, with any ticks before, between and after them. -/
def MainRun : List Instr → State → State → Prop
  | [], s, t => TicksOnly s t
  | i :: ms, s, t => ∃ u, TicksOnly s u ∧ i.phase = some u.ph ∧ MainRun ms (effect i u) t

theorem MainRun.of_ticksOnly (h : TicksOnly s u) (hrun : MainRun ms u t) : MainRun ms s t := by
  cases ms with
  | nil => exact h.trans hrun
  | cons i ms =>
    obtain ⟨v, hv, hrest⟩ := hrun
    exact ⟨v, h.trans hv, hrest⟩

/-- A run without `RESET` is the run of its main operations with ticks between them. -/
theorem mainRun_mainOps (h : runOps is s = .next t) (hreset : .reset ∉ is) : MainRun (mainOps is) s t := by
  induction is generalizing s with
  | nil =>
    obtain rfl : s = t := by simpa using h
    exact TicksOnly.refl s
  | cons i is ih =>
    obtain ⟨hi, his⟩ := not_or.1 (List.mem_cons.not.1 hreset)
    obtain ⟨u, hu, hrest⟩ := runOps_cons_next.1 h
    obtain ⟨hp, htick⟩ | ⟨hp, rfl⟩ := exec_tick_or_main hu (Ne.symm hi)
    · have hagent : i.agent ≠ .main := fun ha => by
        obtain ⟨p, hp'⟩ := phase_of_agent_main ha
        simp [hp'] at hp
      have hm : mainOps (i :: is) = mainOps is := by simp [mainOps, hagent]
      rw [hm]
      exact MainRun.of_ticksOnly htick (ih hrest his)
    · have hm : mainOps (i :: is) = i :: mainOps is := by simp [mainOps, agent_of_phase hp]
      rw [hm]
      exact ⟨s, TicksOnly.refl s, hp, ih hrest his⟩

/-- Samples of the wait with TEST held leave the state as it is (42_input_debounce.md R78). -/
theorem effect_nWait_true (h : s.ph = .nWait) : effect (.nWait true) s = s := by
  cases s
  cases h
  rfl

/-- Over samples of the wait with TEST held only ticks show, however long the hold. -/
theorem MainRun.skip_hold {k : Nat} (h : MainRun (List.replicate k (.nWait true) ++ ms) s t) :
    ∃ u, TicksOnly s u ∧ MainRun ms u t := by
  induction k generalizing s with
  | zero => exact ⟨s, TicksOnly.refl s, h⟩
  | succ k ih =>
    rw [List.replicate_succ, List.cons_append] at h
    obtain ⟨u, hu, hp, hrest⟩ := h
    rw [effect_nWait_true (Option.some.inj hp).symm] at hrest
    obtain ⟨v, hv, hms⟩ := ih hrest
    exact ⟨v, hu.trans hv, hms⟩

end Sys2Proof.Machine
end

section
/-! PROOFS. Encodings (30_encoding.md) and the step: the facts about the 256 step words, each evaluated once over all of them, and
the run of a trace as the run of its operations. -/

namespace Sys2Proof

/-! ### The 256 step words -/

theorem significant_of_decode {w : StepWord} {i : Instr} (h : decode w = .ok i) : w &&& significantBits i = encode i := by
  have hall : ∀ w : StepWord, (decode w).toOption.all (fun i => w &&& significantBits i == encode i) = true := by decide
  simpa [h, Except.toOption] using hall w

/-- Ignored bits are ignored (30_encoding.md R52). -/
theorem decode_of_significant (i : Instr) : ∀ w : StepWord, w &&& significantBits i = encode i → decode w = .ok i := by
  cases i with
  | stHead b | stSel b | nFf b | nTest b | nWait b => cases b <;> decide
  | nSel | snapDi | snapRd | snapEi | drive | tickSvc | tickReq | reset => decide

theorem decode_encode (i : Instr) : decode (encode i) = .ok i := by
  cases i with
  | stHead b | stSel b | nFf b | nTest b | nWait b => cases b <;> rfl
  | nSel | snapDi | snapRd | snapEi | drive | tickSvc | tickReq | reset => rfl

/-- The words that select no operation are `0x28` to `0x3F` (30_encoding.md R57). -/
theorem decode_toOption_eq_none_iff : ∀ w : StepWord, (decode w).toOption = none ↔ 0x28 ≤ w.toNat ∧ w.toNat ≤ 0x3F := by
  decide

theorem wellFormed_eq_isSome : ∀ w : StepWord, StepWord.wellFormed w = (decode w).toOption.isSome := by decide

/-- The operation map selects the row of the decoded operation and no other (30_encoding.md R53). -/
theorem opRows_selecting : ∀ w : StepWord,
    (opRows.filter (·.selects w)).map (·.mnemonic) = ((decode w).toOption.map Instr.mnemonic).toList := by
  decide

/-- All but the 24 reserved words are well formed. -/
theorem length_wellFormed_words :
    ((List.range 256).filter fun n => StepWord.wellFormed (BitVec.ofNat 8 n)).length = 232 := by
  have hreserved : ((List.range 256).filter fun n => !StepWord.wellFormed (BitVec.ofNat 8 n)).length = 24 := by decide
  have hsplit := List.length_eq_length_filter_add (l := List.range 256) fun n => StepWord.wellFormed (BitVec.ofNat 8 n)
  rw [List.length_range, hreserved] at hsplit
  omega

theorem toOption_decode_eq_some_iff {w : StepWord} {i : Instr} : (decode w).toOption = some i ↔ decode w = .ok i := by
  cases decode w <;> simp [Except.toOption]

theorem decode_error_of_reserved {w : StepWord} (h : 0x28 ≤ w.toNat ∧ w.toNat ≤ 0x3F) : ∃ e, decode w = .error e := by
  have hnone := (decode_toOption_eq_none_iff w).2 h
  cases hd : decode w with
  | ok i => simp [hd, Except.toOption] at hnone
  | error e => exact ⟨e, rfl⟩

/-! ### Traces -/

theorem decodeTrace_cons_ok {w : StepWord} {ws : List StepWord} {is : List Instr} :
    decodeTrace (w :: ws) = .ok is ↔ ∃ i js, decode w = .ok i ∧ decodeTrace ws = .ok js ∧ i :: js = is := by
  rw [decodeTrace]
  cases decode w with
  | error e => simp
  | ok i => cases decodeTrace ws <;> simp

theorem decodeTrace_map_encode (is : List Instr) : decodeTrace (is.map encode) = .ok is := by
  induction is with
  | nil => rfl
  | cons i is ih => exact decodeTrace_cons_ok.2 ⟨i, is, decode_encode i, ih, rfl⟩

/-- Settles O21: traces by induction over their operations, and the significant bits over all 256 words. -/
theorem decodeEncodeRoundTrip : Obligations.DecodeEncodeRoundTrip := by
  unfold Obligations.DecodeEncodeRoundTrip
  exact ⟨decodeTrace_map_encode, fun w i => ⟨significant_of_decode, decode_of_significant i w⟩⟩

/-- Settles O22: the rows that select a word are read off its decoding; the reserved words are those with none. -/
theorem operationMapAgreesWithTheDecoder : Obligations.OperationMapAgreesWithTheDecoder := by
  unfold Obligations.OperationMapAgreesWithTheDecoder
  refine ⟨fun w i h => ?_, fun w => ?_, fun w => ?_, length_wellFormed_words⟩
  · rw [opRows_selecting, toOption_decode_eq_some_iff.2 h]
    rfl
  · rw [← decode_toOption_eq_none_iff, ← List.map_eq_nil_iff (f := OpRow.mnemonic), opRows_selecting]
    simp
  · rw [wellFormed_eq_isSome, Option.isSome_iff_exists]
    simp [toOption_decode_eq_some_iff]

/-- Settles O20: the words are closed terms, which the decoder evaluates. -/
theorem writtenOutWordsDecode : Obligations.WrittenOutWordsDecode := by
  unfold Obligations.WrittenOutWordsDecode
  exact ⟨rfl, rfl, rfl, rfl, rfl, rfl, rfl, rfl, rfl, rfl, rfl, rfl, rfl, rfl, rfl, rfl⟩

end Sys2Proof

namespace Sys2Proof.Machine

variable {i : Instr} {s : State}

/-! ### The step -/

/-- Settles O18: the three ways a fetch can end. -/
theorem stepRunsTheDecodedOperation : Obligations.StepRunsTheDecodedOperation := by
  unfold Obligations.StepRunsTheDecodedOperation
  refine ⟨fun s w ws i hev hd => step_ok hev hd, fun s w ws hev hlo hhi => ?_, fun s hev => step_nil hev⟩
  obtain ⟨e, hd⟩ := decode_error_of_reserved ⟨hlo, hhi⟩
  exact step_reserved hev hd

/-! ### A trace's run (assumption log 1): no operation reads the words still to come -/

theorem effect_setEvents (i : Instr) (s : State) (ws : List StepWord) :
    effect i (s.setEvents ws) = (effect i s).setEvents ws := by
  cases i with
  | nTest t => cases t <;> rfl
  | nSel =>
    rw [effect_nSel, effect_nSel]
    rfl
  | _ => rfl

/-- Whatever words are still to come, an operation takes the same step, or is refused for the same reason. -/
theorem exec_setEvents (i : Instr) (s : State) :
    (∀ ws, exec i (s.setEvents ws) = .next ((effect i s).setEvents ws)) ∨
    ∃ r, ∀ ws, exec i (s.setEvents ws) = .refused r := by
  cases hc : s.cfg.admissible with
  | false => exact .inr ⟨_, fun ws => (exec_eq_perform i _).trans (perform_of_inadmissible hc)⟩
  | true =>
    cases he : enabled i s with
    | false => exact .inr ⟨_, fun ws => exec_of_not_enabled hc he⟩
    | true => exact .inl fun ws => effect_setEvents i s ws ▸ exec_of_enabled hc he

/-- Settles O19, by induction over the trace: each word's step is its operation's, on the rest of the trace. -/
theorem traceRunIsOperationRun : Obligations.TraceRunIsOperationRun := by
  unfold Obligations.TraceRunIsOperationRun
  intro ws rest is s hd
  induction ws generalizing is s with
  | nil =>
    obtain rfl : [] = is := by simpa [decodeTrace] using hd
    rfl
  | cons w ws ih =>
    obtain ⟨i, js, hi, hjs, rfl⟩ := decodeTrace_cons_ok.1 hd
    have hstep : step (s.setEvents (w :: (ws ++ rest))) = exec i (s.setEvents (ws ++ rest)) := step_ok rfl hi
    obtain hnext | ⟨r, href⟩ := exec_setEvents i s
    · have hrest := runOps_cons_of (is := js) (hnext rest)
      exact (core_run_succ_next (hstep.trans (hnext _))).trans ((ih js (effect i s) hjs).trans hrest.symm)
    · have hrest : runOps (i :: js) (s.setEvents rest) = .refused r := by rw [runOps, href]
      exact (core_run_succ_refused (hstep.trans (href _))).trans hrest.symm

end Sys2Proof.Machine
end

section
/-! PROOFS. The thirteen operations, each at its phase, at another phase, and at its words; the reset state, the profiles and the
configurations that run. -/

namespace Sys2Proof.Machine

/-! ### Reset and configuration -/

/-- Settles O1: the reset state is a literal, and the views of it are evaluated. -/
theorem resetStateHoldsTheSpecValues : Obligations.ResetStateHoldsTheSpecValues := by
  unfold Obligations.ResetStateHoldsTheSpecValues
  exact ⟨rfl, rfl, rfl, rfl, rfl, rfl, rfl, rfl, rfl, rfl, rfl⟩

/-- Settles O2: the profiles are literals, and their tables are evaluated entry by entry. -/
theorem referenceProfilesMatchTheSpec : Obligations.ReferenceProfilesMatchTheSpec := by
  unfold Obligations.ReferenceProfilesMatchTheSpec
  exact ⟨by decide, by decide, rfl, rfl, by decide, by decide, rfl, rfl, rfl⟩

/-- Settles O3: the check is its six conditions, and every operation makes it first. -/
theorem inadmissibleConfigurationIsRefused : Obligations.InadmissibleConfigurationIsRefused := by
  unfold Obligations.InadmissibleConfigurationIsRefused
  refine ⟨fun c => ?_, fun i s hc => ?_, fun s hc => ⟨⟨_, exec_tickReq hc⟩, _, exec_reset hc⟩⟩
  · simp only [Cfg.admissible, Bool.and_eq_true, decide_eq_true_eq, and_assoc]
  · rw [exec_eq_perform, perform_of_inadmissible hc]

/-! ### The main operations: each is its effect at its phase and refused elsewhere -/

/-- Settles O4: the frame at `ST_HEAD` and elsewhere, and its two words. -/
theorem stHeadDecidesBetweenTheLoops : Obligations.StHeadDecidesBetweenTheLoops := by
  unfold Obligations.StHeadDecidesBetweenTheLoops
  intro f s hc
  refine ⟨exec_of_phase hc rfl, exec_of_other_phase hc rfl, ?_, decode_of_significant (.stHead f)⟩
  cases f <;> rfl

/-- Settles O5: the frame at `ST_SEL` and elsewhere, and its two words. -/
theorem stSelChoosesTheSelfTestSource : Obligations.StSelChoosesTheSelfTestSource := by
  unfold Obligations.StSelChoosesTheSelfTestSource
  intro t s hc
  refine ⟨exec_of_phase hc rfl, exec_of_other_phase hc rfl, ?_, decode_of_significant (.stSel t)⟩
  cases t <;> rfl

/-- Settles O6: the service right after `N_FF` reads the flag just written, and no other effect but that of `RESET` writes it. -/
theorem nFfCopiesTheFfLevel : Obligations.NFfCopiesTheFfLevel := by
  unfold Obligations.NFfCopiesTheFfLevel
  refine ⟨fun f s hc => ⟨exec_of_phase hc rfl, exec_of_other_phase hc rfl,
    fun u v hu hv => ?_, ?_, decode_of_significant (.nFf f)⟩, fun i s t h hff hreset => ?_⟩
  · rw [exec_eq_effect hv, exec_eq_effect hu]
    rfl
  · cases f <;> rfl
  · rw [exec_eq_effect h]
    exact effect_ffl s hff hreset

/-- Settles O9: the frame at `N_SEL` and elsewhere; both branches are in the effect. -/
theorem nSelChoosesAllOnOrSchedule : Obligations.NSelChoosesAllOnOrSchedule := by
  unfold Obligations.NSelChoosesAllOnOrSchedule
  intro s hc
  exact ⟨exec_of_phase hc rfl, exec_of_other_phase hc rfl, rfl, decode_of_significant .nSel⟩

/-- Settles O11: the frame at `SNAP_RD` and elsewhere. -/
theorem snapRdCopiesTheCounter : Obligations.SnapRdCopiesTheCounter := by
  unfold Obligations.SnapRdCopiesTheCounter
  intro s hc
  exact ⟨exec_of_phase hc rfl, exec_of_other_phase hc rfl, rfl, decode_of_significant .snapRd⟩

/-- Settles O12: `SNAP_EI` sets `IE`, so that a pending tick is enabled right after it. -/
theorem snapEiUnmasksTheTick : Obligations.SnapEiUnmasksTheTick := by
  unfold Obligations.SnapEiUnmasksTheTick
  intro s hc
  exact ⟨fun hp => ⟨exec_of_phase hc rfl hp, fun htf => ⟨_, exec_tickSvc hc htf rfl⟩⟩,
    exec_of_other_phase hc rfl, rfl, decode_of_significant .snapEi⟩

/-- The return phase depends on `SEL[1]` only (44_output_mux.md R91). -/
theorem selfTestSource_iff (sel : Sel) : selfTestSource sel = true ↔ sel = .chase ∨ sel = .strobe := by
  cases sel <;> decide

theorem effect_drive (s : State) : effect .drive s =
    { s with
      pa := portAByte (mux s.cfg s.sel s.snap)
      pb := portBByte (mux s.cfg s.sel s.snap)
      hist := s.hist ++ [(portAByte (mux s.cfg s.sel s.snap), portBByte (mux s.cfg s.sel s.snap))]
      ph := if s.sel = .chase ∨ s.sel = .strobe then .stHead else .nFf } := by
  simp only [← selfTestSource_iff]
  rfl

/-- Settles O13: the effect of `DRIVE`; the all-on word is the constant, and the rule's example is evaluated. -/
theorem driveWritesThePairAndReturns : Obligations.DriveWritesThePairAndReturns := by
  unfold Obligations.DriveWritesThePairAndReturns
  refine ⟨fun s hc => ⟨fun hp => ?_, exec_of_other_phase hc rfl, fun v => ?_⟩, by decide, by decide, rfl,
    decode_of_significant .drive⟩
  · rw [exec_of_phase hc rfl hp, effect_drive]
    rfl
  · rw [mux_allon, mux_allon]

/-! ### The tick operations and `RESET` -/

/-- With `W = 2^16` one conditional subtraction is what 16 bits keep of the sum (40_tick.md R64). -/
theorem advance_of_w_eq {c : Cfg} (tc : Word) (inc : Nat) (hw : c.w = 65536) :
    advance c tc inc = tc + BitVec.ofNat 16 inc := by
  apply BitVec.eq_of_toNat_eq
  simp only [advance, hw, BitVec.toNat_ofNat, BitVec.toNat_add]
  split <;> omega

/-- Settles O14: the pseudocode is the effect written out. -/
theorem tickSvcAdvancesTheCounter : Obligations.TickSvcAdvancesTheCounter := by
  unfold Obligations.TickSvcAdvancesTheCounter
  intro s hc
  refine ⟨fun ⟨htf, hie⟩ => exec_tickSvc hc htf hie, exec_tickSvc_of_masked hc, fun t hw h => ?_, rfl,
    decode_of_significant .tickSvc⟩
  rw [exec_eq_effect h]
  exact advance_of_w_eq s.tc _ hw

/-- Settles O15: a request sets `TF` whatever it was, so a second one changes nothing. -/
theorem tickReqSetsTheFiringFlag : Obligations.TickReqSetsTheFiringFlag := by
  unfold Obligations.TickReqSetsTheFiringFlag
  intro s hc
  refine ⟨exec_tickReq hc, fun htf => ?_, ?_, fun hie => ?_, fun hp => ?_, rfl, decode_of_significant .tickReq⟩
  · rw [exec_tickReq hc]
    cases s
    cases htf
    rfl
  · have hagain : exec .tickReq (s.setTf true) = .next (s.setTf true) := exec_tickReq hc
    rw [runOps_cons_of (exec_tickReq hc), runOps_cons_of hagain, runOps_cons_of (exec_tickReq hc)]
  · exact exec_tickSvc_of_masked hc fun h => Bool.false_ne_true (hie.symm.trans h.2)
  · have hei : exec .snapEi (s.setTf true) = .next (effect .snapEi (s.setTf true)) :=
      exec_of_phase hc rfl hp
    have hsvc : exec .tickSvc (effect .snapEi (s.setTf true)) = .next (takeTick (effect .snapEi (s.setTf true))) :=
      exec_tickSvc hc rfl rfl
    exact ⟨_, by rw [runOps_cons_of (exec_tickReq hc), runOps_cons_of hei, runOps_cons_of hsvc, runOps_nil]⟩

/-- Settles O16: the power-on state, with whatever port bytes it draws. -/
theorem resetLoadsTheResetState : Obligations.ResetLoadsTheResetState := by
  unfold Obligations.ResetLoadsTheResetState
  exact ⟨fun s hc => ⟨_, _, _, exec_reset hc⟩, rfl, decode_of_significant .reset⟩

/-- Settles O17: an operation has a step exactly when it is enabled, and the enabling conditions are those listed. -/
theorem enabledOperationsCompleteAndOthersHaveNoStep : Obligations.EnabledOperationsCompleteAndOthersHaveNoStep := by
  unfold Obligations.EnabledOperationsCompleteAndOthersHaveNoStep
  intro i s hc
  rw [exists_exec_next_iff, and_iff_right hc]
  exact ⟨enabled_iff, fun he => exec_of_not_enabled hc (Bool.eq_false_iff.2 he)⟩

end Sys2Proof.Machine
end

section
/-! PROOFS. The frame of every operation (10_state.md R16), what the two contexts share, the phase graph, and the state
invariant (10_state.md R26, assumption log 18). -/

namespace Sys2Proof.Machine

variable {i : Instr} {s t : State}

/-! ### Writers and readers of the registers -/

/-- Settles O43: each clause is the contrapositive of the register's frame lemma. -/
theorem registersHaveTheirOnlyWriters : Obligations.RegistersHaveTheirOnlyWriters := by
  unfold Obligations.RegistersHaveTheirOnlyWriters
  intro i s t h
  obtain rfl := exec_eq_effect h
  refine ⟨fun hne => by_contra fun hn => hne (effect_tc s (hn ∘ .inl) (hn ∘ .inr)),
    fun hne => by_contra fun hn => hne (effect_snap s (hn ∘ .inl) (hn ∘ .inr)),
    fun hne => by_contra fun hn => hne (effect_ffl s (fun f hi => hn (.inl ⟨f, hi⟩)) (hn ∘ .inr)),
    fun hne => by_contra fun hn => hne (effect_tm s (fun hi => hn (.inl ⟨true, hi⟩)) (hn ∘ .inr)),
    fun hne => by_contra fun hn => hne (effect_ie s (hn ∘ .inl) (hn ∘ .inr ∘ .inl) (hn ∘ .inr ∘ .inr)),
    fun hne => by_contra fun hn => hne (effect_tf s (hn ∘ .inl) (hn ∘ .inr ∘ .inl) (hn ∘ .inr ∘ .inr)),
    fun hne => by_contra fun hn =>
      hne (effect_sel s (fun b hi => hn (.inl ⟨b, hi⟩)) (hn ∘ .inr ∘ .inl) (hn ∘ .inr ∘ .inr)),
    fun hne => by_contra fun hn => hne (effect_ph s (hn ∘ .inl) (hn ∘ .inr)),
    fun hne => by_contra fun hn => ?_,
    fun hne => by_contra fun hn => hne (effect_hist s hn),
    effect_events i s, effect_cfg i s, fun a => by rw [effect_cfg]⟩
  obtain ⟨hpa, hpb⟩ := effect_latches s (hn ∘ .inl) (hn ∘ .inr)
  exact hne (Prod.ext hpa hpb)

/-- No main operation but `SNAP_RD` reads `TC` (60_exceptions.md R109). -/
theorem effect_setTc (s : State) (v : Word) (hmain : i.agent = .main) (hrd : i ≠ .snapRd) :
    effect i (s.setTc v) = (effect i s).setTc v := by
  cases i with
  | snapRd => exact absurd rfl hrd
  | tickSvc | tickReq | reset => cases hmain
  | nTest t => cases t <;> rfl
  | nSel =>
    rw [effect_nSel, effect_nSel]
    rfl
  | _ => rfl

theorem enabled_setTc_of_main (s : State) (v : Word) (hmain : i.agent = .main) :
    enabled i (s.setTc v) = enabled i s := by
  simp [enabled, hmain]

/-- Settles O44: a main effect commutes with writing `TC`, and the served tick reads `TF`, `IE`, `TC`, `FFL` only. -/
theorem contextsShareOnlyTheSharedRegisters : Obligations.ContextsShareOnlyTheSharedRegisters := by
  unfold Obligations.ContextsShareOnlyTheSharedRegisters
  refine ⟨fun i s t v hmain hrd h => ?_, fun s t _ _ _ _ _ _ h => ?_⟩
  · obtain ⟨hc, he, rfl⟩ := exec_next_iff.1 h
    exact exec_next_iff.2 ⟨hc, (enabled_setTc_of_main s v hmain).trans he, effect_setTc s v hmain hrd⟩
  · obtain ⟨hc, rfl⟩ := exec_tickSvc_next h
    obtain ⟨htf, hie⟩ := exec_tickSvc_flags h
    exact exec_tickSvc hc htf hie

/-- The state with other bytes in the output latches. -/
def State.withLatches (s : State) (a b : Byte) : State := { s with pa := a, pb := b }

/-- No operation reads the latches back (44_output_mux.md R99). -/
theorem effect_withLatches (s : State) (a b : Byte) (hdrive : i ≠ .drive) (hreset : i ≠ .reset) :
    effect i (s.withLatches a b) = (effect i s).withLatches a b := by
  cases i with
  | drive => exact absurd rfl hdrive
  | reset => exact absurd rfl hreset
  | nTest t => cases t <;> rfl
  | nSel =>
    rw [effect_nSel, effect_nSel]
    rfl
  | _ => rfl

/-- Settles O45: an effect other than those of `DRIVE` and `RESET` commutes with writing the latches; those two overwrite them. -/
theorem outputsHoldBetweenDrives : Obligations.OutputsHoldBetweenDrives := by
  unfold Obligations.OutputsHoldBetweenDrives
  intro i s t a b h
  obtain ⟨hc, he, rfl⟩ := exec_next_iff.1 h
  have hexec : exec i (s.withLatches a b) = .next (effect i (s.withLatches a b)) := exec_of_enabled hc he
  refine ⟨fun hdrive hreset => ?_, fun hdrive => ?_, fun hreset => ?_⟩
  · obtain ⟨hpa, hpb⟩ := effect_latches s hdrive hreset
    rw [effect_withLatches s a b hdrive hreset] at hexec
    exact ⟨hpa, hpb, effect_hist s hdrive, hexec⟩
  · subst hdrive
    exact hexec
  · subst hreset
    exact ⟨rfl, _, hexec, rfl, rfl⟩

/-! ### The tick unit and the sequencer -/

/-- Settles O40: the served tick has `TF = 0`; a request sets it and leaves `IE = 1`. -/
theorem serviceNeverNests : Obligations.ServiceNeverNests := by
  unfold Obligations.ServiceNeverNests
  intro s t h
  obtain ⟨hc, rfl⟩ := exec_tickSvc_next h
  obtain ⟨-, hie⟩ := exec_tickSvc_flags h
  refine ⟨rfl, exec_tickSvc_of_masked hc fun hflags => Bool.false_ne_true hflags.1, ?_⟩
  exact ⟨_, _, exec_tickReq hc, rfl, exec_tickSvc hc rfl hie, rfl⟩

/-- The edges of the phase graph (43_mode_sequencer.md R82). -/
def phaseEdges : List (Phase × Phase) :=
  [(.stHead, .stSel), (.stHead, .nFf), (.stSel, .snapDi), (.snapDi, .snapRd), (.snapRd, .snapEi), (.snapEi, .drive),
   (.drive, .stHead), (.drive, .nFf), (.nFf, .nTest), (.nTest, .nSel), (.nTest, .nWait), (.nWait, .nWait),
   (.nWait, .nSel), (.nSel, .snapDi), (.nSel, .drive)]

theorem effect_edge (hp : i.phase = some s.ph) : (s.ph, (effect i s).ph) ∈ phaseEdges := by
  cases i with
  | tickSvc | tickReq | reset => cases hp
  | stHead b | nTest b | nWait b =>
    rw [← Option.some.inj hp]
    cases b <;> simp [effect, phaseEdges]
  | nSel =>
    rw [← Option.some.inj hp]
    cases htm : s.tm <;> simp [effect, phaseEdges, htm]
  | drive =>
    rw [← Option.some.inj hp]
    cases hsel : selfTestSource s.sel <;> simp [effect, phaseEdges, hsel]
  | stSel _ | nFf _ | snapDi | snapRd | snapEi =>
    rw [← Option.some.inj hp]
    simp [effect, phaseEdges]

/-- The edge that `i` takes from its phase `p` with the given source and test mode is one that some main operation takes. -/
theorem edge_taken {p q : Phase} (i : Instr) (sel : Sel) (tm : Bool) (hi : i.phase = some p)
    (hq : (effect i { State.reset with ph := p, sel := sel, tm := tm }).ph = q) :
    ∃ (i : Instr) (s t : State), i.agent = .main ∧ s.ph = p ∧ exec i s = .next t ∧ t.ph = q :=
  ⟨i, { State.reset with ph := p, sel := sel, tm := tm }, _, agent_of_phase hi, rfl,
    exec_of_phase (show p16.admissible = true by decide) hi rfl, hq⟩

theorem every_edge_taken : ∀ e ∈ phaseEdges,
    ∃ (i : Instr) (s t : State), i.agent = .main ∧ s.ph = e.1 ∧ exec i s = .next t ∧ t.ph = e.2 := by
  simp only [phaseEdges, List.forall_mem_cons]
  exact ⟨edge_taken (.stHead true) .sched false rfl rfl, edge_taken (.stHead false) .sched false rfl rfl,
    edge_taken (.stSel true) .sched false rfl rfl, edge_taken .snapDi .sched false rfl rfl,
    edge_taken .snapRd .sched false rfl rfl, edge_taken .snapEi .sched false rfl rfl,
    edge_taken .drive .chase false rfl rfl, edge_taken .drive .sched false rfl rfl,
    edge_taken (.nFf true) .sched false rfl rfl, edge_taken (.nTest false) .sched false rfl rfl,
    edge_taken (.nTest true) .sched false rfl rfl, edge_taken (.nWait true) .sched false rfl rfl,
    edge_taken (.nWait false) .sched false rfl rfl, edge_taken .nSel .sched false rfl rfl,
    edge_taken .nSel .sched true rfl rfl, fun _ hnil => absurd hnil List.not_mem_nil⟩

/-- Settles O41: a main effect goes along an edge, and each edge has a state and an operation that take it. -/
theorem phaseGraphHasTheseEdgesOnly : Obligations.PhaseGraphHasTheseEdgesOnly := by
  unfold Obligations.PhaseGraphHasTheseEdgesOnly
  refine ⟨fun i s t h => ?_, fun p q hpq => every_edge_taken (p, q) hpq⟩
  obtain ⟨-, he, rfl⟩ := exec_next_iff.1 h
  refine ⟨fun hmain => effect_edge ((enabled_main_iff hmain).1 he), fun htick => ?_, fun hreset => ?_⟩
  · obtain rfl | rfl := htick <;> rfl
  · rw [hreset]
    rfl

/-- The main operation of a phase for given levels of the two buttons (43_mode_sequencer.md R87). -/
def mainOpAt (test ff : Bool) : Phase → Instr
  | .stHead => .stHead ff
  | .stSel => .stSel test
  | .nFf => .nFf ff
  | .nTest => .nTest test
  | .nWait => .nWait test
  | .nSel => .nSel
  | .snapDi => .snapDi
  | .snapRd => .snapRd
  | .snapEi => .snapEi
  | .drive => .drive

theorem mainOpAt_phase (test ff : Bool) (p : Phase) : (mainOpAt test ff p).phase = some p := by
  cases p <;> rfl

theorem mainOpAt_samples_test (test ff : Bool) (p : Phase) {v : Bool}
    (h : (mainOpAt test ff p).sample = some (.test, v)) : v = test := by
  cases p <;> simp_all [mainOpAt, Instr.sample]

theorem mainOpAt_samples_ff (test ff : Bool) (p : Phase) {v : Bool}
    (h : (mainOpAt test ff p).sample = some (.ff, v)) : v = ff := by
  cases p <;> simp_all [mainOpAt, Instr.sample]

theorem eq_mainOpAt {test ff : Bool} {p : Phase} (hp : i.phase = some p)
    (htest : ∀ v, i.sample = some (.test, v) → v = test) (hff : ∀ v, i.sample = some (.ff, v) → v = ff) :
    i = mainOpAt test ff p := by
  cases i with
  | tickSvc | tickReq | reset => cases hp
  | stHead f | nFf f =>
    obtain rfl := Option.some.inj hp
    rw [hff f rfl]
    rfl
  | stSel t | nTest t | nWait t =>
    obtain rfl := Option.some.inj hp
    rw [htest t rfl]
    rfl
  | nSel | snapDi | snapRd | snapEi | drive =>
    obtain rfl := Option.some.inj hp
    rfl

/-- Settles O42: the operation of the phase for the two levels has a step, and no other agrees with phase and levels. -/
theorem oneMainOperationForEveryInput : Obligations.OneMainOperationForEveryInput := by
  unfold Obligations.OneMainOperationForEveryInput
  intro s test ff hc
  have hp := mainOpAt_phase test ff s.ph
  refine ⟨⟨mainOpAt test ff s.ph, ⟨agent_of_phase hp, fun _ => mainOpAt_samples_test test ff s.ph,
    fun _ => mainOpAt_samples_ff test ff s.ph, _, exec_of_phase hc hp rfl⟩, ?_⟩, ⟨_, exec_tickReq hc⟩, _, exec_reset hc⟩
  rintro i ⟨hmain, htest, hff, t, h⟩
  exact eq_mainOpAt ((enabled_main_iff hmain).1 (exec_next_iff.1 h).2.1) htest hff

/-! ### Self-test active (10_state.md R28) over one step -/

/-- In the snapshot and drive phases self-test is active when `SEL[1]` is set (10_state.md R28). -/
theorem stActive_of_resolved (h : resolvedPhase s.ph = true) : stActive s = selfTestSource s.sel := by
  cases hp : s.ph with
  | snapDi | snapRd | snapEi | drive => simp [stActive, hp]
  | _ => simp [hp, resolvedPhase] at h

theorem TicksOnly.stActive (h : TicksOnly s t) : stActive t = stActive s := by
  rw [h.rest]
  rfl

/-- From a state outside self-test no main operation leads into it: `SEL[1]` is 0 in a resolved pass, and `N_SEL` sets it so. -/
theorem stActive_effect_of_phase (hp : i.phase = some s.ph) (hs : stActive s = false) : stActive (effect i s) = false := by
  cases i with
  | tickSvc | tickReq | reset => cases hp
  | stHead _ | stSel _ => simp [stActive, ← Option.some.inj hp] at hs
  | nFf _ => rfl
  | nTest b | nWait b => cases b <;> rfl
  | nSel => cases htm : s.tm <;> simp [effect, htm, stActive, selfTestSource, selCode]
  | snapDi | snapRd | snapEi =>
    have hsel : selfTestSource s.sel = false := by simpa [stActive, ← Option.some.inj hp] using hs
    exact hsel
  | drive =>
    have hsel : selfTestSource s.sel = false := by simpa [stActive, ← Option.some.inj hp] using hs
    simp [effect, hsel, stActive]

/-! ### The state invariant -/

/-- Any state with the reset values in its control registers and an admissible configuration meets the invariant. -/
theorem inv_of_reset_values (hc : s.cfg.admissible = true) (htc : s.tc = 0#16) (hsnap : s.snap = 0#16)
    (hffl : s.ffl = false) (htm : s.tm = false) (hie : s.ie = true) (hph : s.ph = .stHead) : Inv s := by
  obtain ⟨-, ⟨hw, -⟩, -⟩ := admissible_iff.1 hc
  exact
    { admissible := hc
      tcBound := by rw [htc]; exact hw
      snapBound := by rw [hsnap]; exact hw
      maskWindow := by simp [hie, hph]
      selfTestQuiet := fun _ => ⟨hffl, htm⟩
      snapshotSource := by simp [hph]
      sourceMatchesMode := by simp [hph, resolvedPhase] }

/-- Settles O55: the reset state has the reset values, and its configuration is `P16`. -/
theorem resetStateMeetsTheInvariant : Obligations.ResetStateMeetsTheInvariant := by
  unfold Obligations.ResetStateMeetsTheInvariant
  exact inv_of_reset_values (by decide) rfl rfl rfl rfl rfl rfl

/-- Ticks keep the invariant as long as they keep the counter below `W`. -/
theorem inv_of_ticksOnly (hinv : Inv s) (h : TicksOnly s t) (htc : t.tc.toNat < s.cfg.w) : Inv t := by
  rw [h.rest]
  exact
    { admissible := hinv.admissible
      tcBound := htc
      snapBound := hinv.snapBound
      maskWindow := hinv.maskWindow
      selfTestQuiet := hinv.selfTestQuiet
      snapshotSource := hinv.snapshotSource
      sourceMatchesMode := hinv.sourceMatchesMode }

/-- `SNAP_DI` and `SNAP_EI` write `IE` on entry to and exit from the critical section; the others stay inside or outside. -/
theorem maskWindow_effect_of_phase (hmask : s.ie = false ↔ s.ph = .snapRd ∨ s.ph = .snapEi) (hp : i.phase = some s.ph) :
    (effect i s).ie = false ↔ (effect i s).ph = .snapRd ∨ (effect i s).ph = .snapEi := by
  cases i with
  | tickSvc | tickReq | reset => cases hp
  | snapDi | snapEi => simp [effect]
  | stHead b | nTest b | nWait b => cases b <;> simpa [effect, ← Option.some.inj hp] using hmask
  | stSel _ | nFf _ | snapRd => simpa [effect, ← Option.some.inj hp] using hmask
  | nSel => cases htm : s.tm <;> simpa [effect, htm, ← Option.some.inj hp] using hmask
  | drive => cases hsel : selfTestSource s.sel <;> simpa [effect, hsel, ← Option.some.inj hp] using hmask

/-- Self-test is not entered, and the two writers of the flags belong to the normal loop. -/
theorem selfTestQuiet_effect_of_phase (hquiet : stActive s = true → s.ffl = false ∧ s.tm = false)
    (hp : i.phase = some s.ph) (hnext : stActive (effect i s) = true) :
    (effect i s).ffl = false ∧ (effect i s).tm = false := by
  have hs : stActive s = true := by
    by_contra hn
    rw [stActive_effect_of_phase hp (Bool.eq_false_iff.2 hn)] at hnext
    cases hnext
  have hff : ∀ f, i ≠ .nFf f := by
    rintro f rfl
    simp [stActive, ← Option.some.inj hp] at hs
  have htest : i ≠ .nTest true := by
    rintro rfl
    simp [stActive, ← Option.some.inj hp] at hs
  have hreset : i ≠ .reset := by
    rintro rfl
    cases hp
  rw [effect_ffl s hff hreset, effect_tm s htest hreset]
  exact hquiet hs

/-- A snapshot phase is entered from `ST_SEL`, or from `N_SEL` with the schedule, or from the one before it. -/
theorem snapshotSource_effect_of_phase (hsource : s.ph = .snapDi ∨ s.ph = .snapRd ∨ s.ph = .snapEi → s.sel ≠ .allon)
    (hp : i.phase = some s.ph)
    (hnext : (effect i s).ph = .snapDi ∨ (effect i s).ph = .snapRd ∨ (effect i s).ph = .snapEi) :
    (effect i s).sel ≠ .allon := by
  cases i with
  | tickSvc | tickReq | reset => cases hp
  | stSel b => cases b <;> simp [effect]
  | nSel =>
    cases htm : s.tm with
    | false => simp [effect, htm]
    | true => simp [effect, htm] at hnext
  | snapDi | snapRd => exact hsource (by simp [← Option.some.inj hp])
  | stHead b | nTest b | nWait b => cases b <;> simp [effect] at hnext
  | nFf _ | snapEi => simp [effect] at hnext
  | drive => cases hsel : selfTestSource s.sel <;> simp [effect, hsel] at hnext

/-- A resolved phase is entered from `ST_SEL` with a self-test source, or from `N_SEL` as `TM` says, or from the one before. -/
theorem sourceMatchesMode_effect_of_phase
    (hmode : resolvedPhase s.ph = true → (s.sel = .sched → s.tm = false) ∧ (s.sel = .allon → s.tm = true))
    (hp : i.phase = some s.ph) (hnext : resolvedPhase (effect i s).ph = true) :
    ((effect i s).sel = .sched → (effect i s).tm = false) ∧ ((effect i s).sel = .allon → (effect i s).tm = true) := by
  cases i with
  | tickSvc | tickReq | reset => cases hp
  | stSel b => cases b <;> simp [effect]
  | nSel => cases htm : s.tm <;> simp [effect, htm]
  | snapDi | snapRd | snapEi => exact hmode (by rw [← Option.some.inj hp]; rfl)
  | stHead b | nTest b | nWait b => cases b <;> cases hnext
  | nFf _ => cases hnext
  | drive => cases hsel : selfTestSource s.sel <;> simp [effect, hsel, resolvedPhase] at hnext

theorem snapBound_effect_of_phase (hinv : Inv s) (hp : i.phase = some s.ph) : (effect i s).snap.toNat < s.cfg.w := by
  by_cases hrd : i = .snapRd
  · rw [hrd]
    exact hinv.tcBound
  · rw [effect_snap s hrd (by rintro rfl; cases hp)]
    exact hinv.snapBound

/-- A main operation keeps the invariant, field by field. -/
theorem inv_effect_of_phase (hinv : Inv s) (hp : i.phase = some s.ph) : Inv (effect i s) where
  admissible := (effect_cfg i s).symm ▸ hinv.admissible
  tcBound := by
    rw [effect_cfg, effect_tc s (by rintro rfl; cases hp) (by rintro rfl; cases hp)]
    exact hinv.tcBound
  snapBound := (effect_cfg i s).symm ▸ snapBound_effect_of_phase hinv hp
  maskWindow := maskWindow_effect_of_phase hinv.maskWindow hp
  selfTestQuiet := selfTestQuiet_effect_of_phase hinv.selfTestQuiet hp
  snapshotSource := snapshotSource_effect_of_phase hinv.snapshotSource hp
  sourceMatchesMode := sourceMatchesMode_effect_of_phase hinv.sourceMatchesMode hp

/-- Every operation keeps the invariant: the two tick operations, `RESET`, and the main ones. -/
theorem inv_of_exec (hinv : Inv s) (h : exec i s = .next t) : Inv t := by
  obtain ⟨hc, he, rfl⟩ := exec_next_iff.1 h
  obtain rfl | rfl | ⟨rfl, -, hie⟩ | hp := enabled_iff.1 he
  · exact inv_of_ticksOnly hinv ⟨rfl, fun _ => rfl⟩ hinv.tcBound
  · exact inv_of_reset_values hc rfl rfl rfl rfl rfl rfl
  · refine inv_of_ticksOnly hinv ⟨rfl, fun hie' => absurd (hie.symm.trans hie') (by decide)⟩ ?_
    have hle := takeTick_tc_le hc hinv.tcBound
    have hlt := hinv.tcBound
    change (takeTick s).tc.toNat < s.cfg.w
    omega
  · exact inv_effect_of_phase hinv hp

/-- The invariant does not speak of the words still to come. -/
theorem inv_setEvents (hinv : Inv s) (ws : List StepWord) : Inv (s.setEvents ws) :=
  ⟨hinv.admissible, hinv.tcBound, hinv.snapBound, hinv.maskWindow, hinv.selfTestQuiet, hinv.snapshotSource,
    hinv.sourceMatchesMode⟩

/-- Settles O56: a step is the operation of the next word, and every operation keeps the invariant. -/
theorem everyStepKeepsTheInvariant : Obligations.EveryStepKeepsTheInvariant := by
  unfold Obligations.EveryStepKeepsTheInvariant
  intro s t hinv h
  obtain ⟨w, ws, i, -, -, hexec⟩ := step_next h
  exact inv_of_exec (inv_setEvents hinv ws) hexec

end Sys2Proof.Machine
end

section
/-! PROOFS. The counter and the firing flag over runs (40_tick.md, 60_exceptions.md R107), the snapshot (41_virtual_clock.md), and
the multiplexer's sources (44_output_mux.md). -/

namespace Sys2Proof.Machine

variable {i : Instr} {is : List Instr} {s t u : State}

/-! ### Services in a run and the counter -/

/-- Over a run that leaves `FFL` as it is, every service adds the same increment modulo `W`. -/
theorem runOps_tc (h : runOps is s = .next t) (hw : s.tc.toNat < s.cfg.w)
    (hops : ∀ i ∈ is, i ≠ .reset ∧ i ≠ .nFf (!s.ffl)) :
    t.ffl = s.ffl ∧ t.tc.toNat = (s.tc.toNat + is.count .tickSvc * tickIncrement s.cfg s.ffl) % s.cfg.w := by
  have hrun : t.cfg = s.cfg ∧ t.ffl = s.ffl ∧
      t.tc.toNat = (s.tc.toNat + is.count .tickSvc * tickIncrement s.cfg s.ffl) % s.cfg.w := by
    refine runOps_snoc_induction
      (P := fun is u => u.cfg = s.cfg ∧ u.ffl = s.ffl ∧
        u.tc.toNat = (s.tc.toNat + is.count .tickSvc * tickIncrement s.cfg s.ffl) % s.cfg.w)
      hops ⟨rfl, rfl, ?_⟩ ?_ h
    · rw [List.count_nil, Nat.zero_mul, Nat.add_zero, Nat.mod_eq_of_lt hw]
    · rintro is i u v ⟨hreset, hff⟩ ⟨hcfg, hffl, htc⟩ hv
      refine ⟨(exec_cfg hv).trans hcfg, ?_, ?_⟩
      · by_cases hi : ∃ f, i = .nFf f
        · obtain ⟨f, rfl⟩ := hi
          rw [exec_eq_effect hv]
          simpa [effect] using hff
        · rw [exec_eq_effect hv, effect_ffl u (fun f hf => hi ⟨f, hf⟩) hreset, hffl]
      · by_cases hi : i = .tickSvc
        · subst hi
          obtain ⟨hc, rfl⟩ := exec_tickSvc_next hv
          have hlt : u.tc.toNat < u.cfg.w := by
            rw [htc, hcfg]
            exact Nat.mod_lt _ (by omega)
          rw [takeTick_tc_toNat hc hlt, hcfg, hffl, htc, Nat.mod_add_mod, List.count_append, List.count_singleton_self,
            Nat.add_one_mul, Nat.add_assoc]
        · rw [exec_tc hv hi hreset, htc, List.count_append, List.count_singleton, if_neg (by simpa using hi), Nat.add_zero]
  exact hrun.2

/-- A tick of an unmasked state: a request and its service (30_encoding.md R61). -/
theorem runOps_tick (hc : s.cfg.admissible = true) (hie : s.ie = true) :
    runOps (.tickReq :: .tickSvc :: is) s = runOps is (takeTick (s.setTf true)) := by
  have hsvc : exec .tickSvc (s.setTf true) = .next (takeTick (s.setTf true)) := exec_tickSvc hc rfl hie
  rw [runOps_cons_of (exec_tickReq hc), runOps_cons_of hsvc]

theorem runOps_ticks (k : Nat) (hc : s.cfg.admissible = true) (hie : s.ie = true) :
    ∃ t, runOps (expand (.ticks k)) s = .next t ∧ TicksOnly s t := by
  induction k generalizing s with
  | zero => exact ⟨s, rfl, TicksOnly.refl s⟩
  | succ k ih =>
    have htick : TicksOnly s (takeTick (s.setTf true)) := ⟨rfl, fun hie' => absurd (hie.symm.trans hie') (by decide)⟩
    have hc' : (takeTick (s.setTf true)).cfg.admissible = true := hc
    obtain ⟨t, ht, hticks⟩ := ih hc' hie
    exact ⟨t, (runOps_tick hc hie).trans ht, htick.trans hticks⟩

theorem mem_expand_ticks {k : Nat} (h : i ∈ expand (.ticks k)) : i = .tickReq ∨ i = .tickSvc := by
  obtain ⟨js, hjs, hi⟩ := List.mem_flatten.1 h
  rw [List.eq_of_mem_replicate hjs] at hi
  simpa using hi

theorem count_tickSvc_ticks (k : Nat) : (expand (.ticks k)).count .tickSvc = k := by
  rw [expand, List.count_flatten, List.map_replicate, List.sum_replicate]
  simp

/-- Settles O25: the run of `k` ticks keeps all but `TC` and `TF`, and its `k` services each add the increment. -/
theorem repeatedTicksAddUp : Obligations.RepeatedTicksAddUp := by
  unfold Obligations.RepeatedTicksAddUp
  intro k s hc hw hie
  obtain ⟨t, ht, hticks⟩ := runOps_ticks k hc hie
  have hops : ∀ i ∈ expand (.ticks k), i ≠ .reset ∧ i ≠ .nFf (!s.ffl) := fun i hi => by
    obtain rfl | rfl := mem_expand_ticks hi <;> simp
  obtain ⟨-, htc⟩ := runOps_tc ht hw hops
  rw [count_tickSvc_ticks] at htc
  refine ⟨t, ht, htc, fun hffl => ?_, hticks.rest⟩
  rw [hffl, tickIncrement_false, Nat.mul_one] at htc
  rw [← BitVec.toNat_inj, htc]
  have hmod := Nat.add_modEq_left_iff (a := s.tc.toNat) (b := k) (n := s.cfg.w)
  rwa [Nat.ModEq, Nat.mod_eq_of_lt hw] at hmod

/-! ### Requests and services (60_exceptions.md R107) -/

/-- The number of ticks pending in a state, 0 or 1. -/
def pending (s : State) : Nat := if s.tf then 1 else 0

/-- One step that does not overrun: what is served or still pending was pending or is requested. -/
theorem served_add_pending_eq (h : exec i s = .next t) (hreset : i ≠ .reset) (hover : i = .tickReq → s.tf = false) :
    [i].count .tickSvc + pending t = pending s + [i].count .tickReq := by
  by_cases hsvc : i = .tickSvc
  · subst hsvc
    obtain ⟨htf, -⟩ := exec_tickSvc_flags h
    obtain ⟨-, rfl⟩ := exec_tickSvc_next h
    simp [pending, htf]
  · by_cases hreq : i = .tickReq
    · subst hreq
      simp [pending, exec_eq_effect h, effect, hover rfl]
    · have htf : t.tf = s.tf := by rw [exec_eq_effect h, effect_tf s hreq hsvc hreset]
      simp [pending, htf, hsvc, hreq]

/-- Only a request that finds `TF = 1` is lost (D18). -/
theorem served_add_pending_le (h : exec i s = .next t) (hreset : i ≠ .reset) :
    [i].count .tickSvc + pending t ≤ pending s + [i].count .tickReq := by
  by_cases hover : i = .tickReq → s.tf = false
  · exact (served_add_pending_eq h hreset hover).le
  · obtain ⟨rfl, htf⟩ := Classical.not_imp.1 hover
    simp [pending, exec_eq_effect h, effect]

theorem opsBefore_succ (e : Execution) (n : Nat) : opsBefore e (n + 1) = opsBefore e n ++ [e.op n] := by
  simp [opsBefore, List.range_succ]

theorem runOps_opsBefore (e : Execution) (n : Nat) : runOps (opsBefore e n) (e.state 0) = .next (e.state n) := by
  induction n with
  | zero => rfl
  | succ n ih =>
    rw [opsBefore_succ]
    exact runOps_append_next.2 ⟨e.state n, ih, runOps_cons_next.2 ⟨_, e.steps n, rfl⟩⟩

theorem services_eq_requests {e : Execution} (hreset : ∀ n, e.op n ≠ .reset) (h0 : (e.state 0).tf = false)
    (hover : NoOverrun e) (n : Nat) :
    (opsBefore e n).count .tickSvc + pending (e.state n) = (opsBefore e n).count .tickReq := by
  induction n with
  | zero => simp [opsBefore, pending, h0]
  | succ n ih =>
    have hstep := served_add_pending_eq (e.steps n) (hreset n) (hover n)
    rw [opsBefore_succ, List.count_append, List.count_append]
    omega

/-- Settles O26: by induction over the execution, one step at a time. -/
theorem servicesMatchRequests : Obligations.ServicesMatchRequests := by
  unfold Obligations.ServicesMatchRequests
  intro e hreset h0
  refine ⟨fun n => ?_, fun hover n => services_eq_requests hreset h0 hover n⟩
  change (opsBefore e n).count .tickSvc + pending (e.state n) ≤ (opsBefore e n).count .tickReq
  induction n with
  | zero => simp [opsBefore, pending, h0]
  | succ n ih =>
    have hstep := served_add_pending_le (e.steps n) (hreset n)
    rw [opsBefore_succ, List.count_append, List.count_append]
    omega

/-- The requests of a timetable before step `n` are those of its first `k` steps of request that lie before `n`. -/
theorem count_tickReq_opsBefore {e : Execution} {time : Nat → Rat} {start : Rat} {request : Nat → Nat}
    (htable : Timetable e time start request) {n k : Nat} (hbefore : ∀ j < k, request j < n) (hnot : n ≤ request k) :
    (opsBefore e n).count .tickReq = k := by
  induction n generalizing k with
  | zero =>
    have hk : k = 0 := Nat.eq_zero_of_not_pos fun hk => Nat.not_lt_zero _ (hbefore 0 hk)
    simp [hk, opsBefore]
  | succ n ih =>
    rw [opsBefore_succ, List.count_append]
    by_cases hop : e.op n = .tickReq
    · obtain ⟨j, rfl⟩ := (htable.exactly n).1 hop
      have hjk : j < k := Nat.lt_of_not_le fun hkj => by
        obtain rfl | hlt := hkj.eq_or_lt
        · omega
        · have := htable.ordered k j hlt
          omega
      have hk : k = j + 1 := by
        by_contra hne
        have hlater := htable.ordered j (k - 1) (by omega)
        have := hbefore (k - 1) (by omega)
        omega
      rw [ih (k := j) (fun l hl => htable.ordered l j hl) le_rfl, hop, hk]
      rfl
    · have hother : ∀ j < k, request j < n := fun j hj => by
        have hne : request j ≠ n := fun heq => hop ((htable.exactly n).2 ⟨j, heq⟩)
        have := hbefore j hj
        omega
      rw [ih hother (by omega), List.count_singleton, if_neg (by simpa using hop), Nat.add_zero]

/-- Without fast-forward the counter that starts at 0 is the number of services modulo `W`. -/
theorem tc_eq_count_tickSvc {e : Execution} (hreset : ∀ n, e.op n ≠ .reset) (hffl : ∀ n, (e.state n).ffl = false)
    (htc : (e.state 0).tc = 0#16) (n : Nat) :
    (e.state n).tc.toNat = (opsBefore e n).count .tickSvc % (e.state 0).cfg.w := by
  obtain ⟨-, ⟨hw, -⟩, -⟩ := admissible_iff.1 (exec_admissible (e.steps 0))
  have hops : ∀ i ∈ opsBefore e n, i ≠ .reset ∧ i ≠ .nFf (!(e.state 0).ffl) := by
    intro i hi
    obtain ⟨m, -, rfl⟩ := List.mem_map.1 hi
    refine ⟨hreset m, fun hop => ?_⟩
    have hset := congrArg State.ffl (exec_eq_effect (e.steps m))
    rw [hop, hffl, hffl] at hset
    cases hset
  obtain ⟨-, h⟩ := runOps_tc (runOps_opsBefore e n) (by rw [htc]; exact hw) hops
  rwa [htc, hffl, tickIncrement_false, Nat.mul_one, BitVec.toNat_ofNat, Nat.zero_mod, Nat.zero_add] at h

/-- Settles O27: at the `k`-th request `k` requests were made and served, so `TC` is `k`, and `k / RATE` seconds have passed. -/
theorem counterTracksRealTime : Obligations.CounterTracksRealTime := by
  unfold Obligations.CounterTracksRealTime
  intro e time start request htable hover hreset hffl htc htf k hk
  have hreq : e.op (request k) = .tickReq := (htable.exactly _).2 ⟨k, rfl⟩
  have hcount := services_eq_requests hreset htf hover (request k)
  rw [count_tickReq_opsBefore htable (fun j hj => htable.ordered j k hj) le_rfl, pending, hover _ hreq] at hcount
  have hserved : (opsBefore e (request k)).count .tickSvc = k := by simpa using hcount
  have htck : (e.state (request k)).tc.toNat = k := by
    rw [tc_eq_count_tickSvc hreset hffl htc, hserved, Nat.mod_eq_of_lt hk]
  rw [seconds, htck, htable.onTime, add_sub_cancel_left, Rat.floor_natCast_div_natCast, Int.natCast_ediv]

/-! ### The snapshot -/

theorem runOps_replicate_tickReq (k : Nat) (hc : s.cfg.admissible = true) :
    runOps (List.replicate k .tickReq) s = .next (s.setTf (s.tf || decide (0 < k))) := by
  induction k generalizing s with
  | zero => simp [State.setTf]
  | succ k ih =>
    have hrest : runOps (List.replicate k .tickReq) (s.setTf true) = .next ((s.setTf true).setTf (true || decide (0 < k))) :=
      ih hc
    rw [List.replicate_succ, runOps_cons_of (exec_tickReq hc), hrest]
    simp [State.setTf]

/-- Settles O28: the run is cut at its five parts; the requests of both gaps are collected in `TF`. -/
theorem snapshotReadIsRaceFree : Obligations.SnapshotReadIsRaceFree := by
  unfold Obligations.SnapshotReadIsRaceFree
  intro a b s hc hp
  have hor : (s.tf || decide (0 < a) || decide (0 < b)) = (s.tf || decide (0 < a + b)) := by
    rw [Bool.or_assoc, ← Bool.decide_or]
    congr 2
    exact propext (by omega)
  rw [← hor]
  simp only [List.append_assoc, List.cons_append, List.nil_append]
  refine (runOps_cons_of (exec_of_phase hc rfl hp)).trans ?_
  refine (runOps_append_of (runOps_replicate_tickReq a (by exact hc))).trans ?_
  refine (runOps_cons_of (exec_of_phase (by exact hc) rfl rfl)).trans ?_
  refine (runOps_append_of (runOps_replicate_tickReq b (by exact hc))).trans ?_
  exact runOps_cons_of (exec_of_phase (by exact hc) rfl rfl)

/-- Between `SNAP_DI` and `SNAP_EI` the tick is masked: no service, `TC` frozen, a pending tick kept (20_memory.md R46). -/
theorem critical_section (h : runOps (.snapDi :: is) s = .next t) (hreset : .reset ∉ is) (hei : .snapEi ∉ is) :
    t.ie = false ∧ .tickSvc ∉ is ∧ t.tc = s.tc ∧ (s.tf = true → t.tf = true) := by
  obtain ⟨u, hu, hrun⟩ := runOps_cons_next.1 h
  obtain rfl := exec_eq_effect hu
  have hops : ∀ i ∈ is, i ≠ .reset ∧ i ≠ .snapEi := fun i hi =>
    ⟨forall_ne_of_notMem hreset i hi, forall_ne_of_notMem hei i hi⟩
  refine runOps_snoc_induction (s := effect .snapDi s)
    (P := fun is u => u.ie = false ∧ .tickSvc ∉ is ∧ u.tc = s.tc ∧ (s.tf = true → u.tf = true))
    hops ⟨rfl, List.not_mem_nil, rfl, id⟩ ?_ hrun
  rintro is i u v ⟨hreset, hei⟩ ⟨hie, hsvc, htc, htf⟩ hv
  have hi : i ≠ .tickSvc := by
    rintro rfl
    exact Bool.false_ne_true (hie.symm.trans (exec_tickSvc_flags hv).2)
  obtain rfl := exec_eq_effect hv
  refine ⟨?_, by simp [hsvc, Ne.symm hi], (effect_tc u hi hreset).trans htc, fun h => ?_⟩
  · by_cases hdi : i = .snapDi
    · rw [hdi]
      rfl
    · rw [effect_ie u hdi hei hreset, hie]
  · by_cases hreq : i = .tickReq
    · rw [hreq]
      rfl
    · rw [effect_tf u hreq hi hreset, htf h]

/-- Settles O29: the critical section. -/
theorem counterFrozenInCriticalSection : Obligations.CounterFrozenInCriticalSection := by
  unfold Obligations.CounterFrozenInCriticalSection
  intro is s t h hreset hei
  obtain ⟨hie, hsvc, htc, -⟩ := critical_section h hreset hei
  exact ⟨hsvc, htc, hie⟩

/-- Settles O10: `SNAP_DI` opens the critical section; before it the mask window of the invariant says `IE = 1`. -/
theorem snapDiMasksTheTick : Obligations.SnapDiMasksTheTick := by
  unfold Obligations.SnapDiMasksTheTick
  intro s hc
  refine ⟨fun hp => ⟨exec_of_phase hc rfl hp, exec_tickSvc_of_masked hc fun h => Bool.false_ne_true h.2⟩,
    fun is u hreset hei h => ?_, exec_of_other_phase hc rfl, fun hinv hp => ?_, rfl, decode_of_significant .snapDi⟩
  · obtain ⟨-, hsvc, -, htf⟩ := critical_section h hreset hei
    exact ⟨hsvc, htf⟩
  · rw [← Bool.not_eq_false, hinv.maskWindow, hp]
    simp

/-- Settles O30: the tick is masked at `SNAP_RD`, so `TC` there is that of the start; `SNAP` and `SEL` keep their values up to
`DRIVE`. -/
theorem portsShowTheCounterAtTheSnapshot : Obligations.PortsShowTheCounterAtTheSnapshot := by
  unfold Obligations.PortsShowTheCounterAtTheSnapshot
  intro is s t hinv hp hreset hmain h
  have hrun := mainRun_mainOps h hreset
  rw [hmain] at hrun
  obtain ⟨u, hu, -, v, hv, -, w, hw, -, ht⟩ := hrun
  have htc : u.tc = s.tc := hu.masked (hinv.maskWindow.2 (.inl hp))
  have hsnap : w.snap = s.tc := by rw [hw.snap, effect_snap v (by simp) (by simp), hv.snap, ← htc]; rfl
  have hsel : w.sel = s.sel := by
    rw [hw.sel, effect_sel v (by simp) (by simp) (by simp), hv.sel, effect_sel u (by simp) (by simp) (by simp), hu.sel]
  have hcfg : w.cfg = s.cfg := by rw [hw.cfg, effect_cfg, hv.cfg, effect_cfg, hu.cfg]
  have hhist : w.hist = s.hist := by
    rw [hw.hist, effect_hist v (by simp), hv.hist, effect_hist u (by simp), hu.hist]
  rw [ht.snap, ht.hist, ht.pa, ht.pb, ← hsnap, ← hsel, ← hcfg, ← hhist]
  exact ⟨rfl, rfl, rfl⟩

end Sys2Proof.Machine
end

section
/-! PROOFS. What the sources of the multiplexer drive (44_output_mux.md), whole passes (30_encoding.md R61), and the debounce
(42_input_debounce.md). -/

namespace Sys2Proof.Machine

variable {i : Instr} {is ms : List Instr} {s t u : State}

/-! ### The multiplexer -/

theorem muxAddr_sched_toNat (c : Cfg) (snap : Word) : (muxAddr c .sched snap).toNat = hour c snap := by
  have hlt := hour_lt c snap
  simp only [muxAddr, BitVec.toNat_ofNat]
  omega

theorem muxAddr_strobe_toNat (c : Cfg) (snap : Word) : (muxAddr c .strobe snap).toNat = 0x20 + strobeParity c snap := by
  have hlt := strobeParity_lt c snap
  simp only [muxAddr, BitVec.toNat_ofNat]
  omega

theorem muxAddr_chase_toNat {c : Cfg} {snap : Word} (h : chaseIndex c snap < 16) :
    (muxAddr c .chase snap).toNat = 0x10 + chaseIndex c snap := by
  simp only [muxAddr, BitVec.toNat_ofNat]
  omega

/-- Below `W = 16 * DIV` the hour needs no reduction (41_virtual_clock.md R74). -/
theorem hour_eq_div {c : Cfg} {snap : Word} (hc : c.admissible = true) (h : snap.toNat < c.w) :
    hour c snap = snap.toNat / c.div := by
  obtain ⟨-, -, -, -, hw, -⟩ := admissible_iff.1 hc
  rw [hw, Nat.mul_comm] at h
  exact Nat.mod_eq_of_lt (Nat.div_lt_of_lt_mul h)

/-- Settles O32: each index is a remainder, and the addresses of the tables leave room for it in six bits. -/
theorem indicesStayInBounds : Obligations.IndicesStayInBounds := by
  unfold Obligations.IndicesStayInBounds
  refine ⟨fun c snap _ _ hn hn16 => ?_, fun c snap hc h => hour_eq_div hc h⟩
  have hchase : chaseIndex c snap < c.n := Nat.mod_lt _ hn
  exact ⟨Nat.le_pred_of_lt (hour_lt c snap), Nat.le_pred_of_lt hchase, Nat.le_pred_of_lt (strobeParity_lt c snap),
    muxAddr_sched_toNat c snap, muxAddr_chase_toNat (hchase.trans_le hn16), muxAddr_strobe_toNat c snap, rfl⟩

/-- Settles O33: `DRIVE` writes the entry at the hour; the two figures are the hours of 0 and of `0x5000`. -/
theorem schedulePassDrivesTheHour : Obligations.SchedulePassDrivesTheHour := by
  unfold Obligations.SchedulePassDrivesTheHour
  refine ⟨fun s hc hp hsel => ?_, fun c snap _ => ⟨_, sched_getElem?_hour c snap, rfl⟩, fun c hdiv => ?_⟩
  · obtain ⟨t, ht, hpa, hpb, hhist⟩ := exec_drive_writes hc hp
    rw [hsel] at hpa hpb
    exact ⟨t, mux s.cfg .sched s.snap, ht, sched_getElem?_hour s.cfg s.snap, hpa, hpb, hhist⟩
  · have hzero : hour c 0#16 = 0 := by simp [hour]
    refine ⟨hzero, ?_, by simp [hour, hdiv]⟩
    have hread : mux c .sched 0#16 = c.sched.toList.getD (hour c 0#16) 0#16 := romRead_sched c (hour_lt c 0#16)
    rwa [hzero] at hread

/-- Settles O34: the all-on word is the constant; the served tick keeps `TM` and advances `TC`. -/
theorem allOnPassDrivesTheConstant : Obligations.AllOnPassDrivesTheConstant := by
  unfold Obligations.AllOnPassDrivesTheConstant
  refine ⟨fun s hc hp hsel => ?_, fun s hc htm htf hie hw => ?_⟩
  · obtain ⟨t, ht, hpa, hpb, hhist⟩ := exec_drive_writes hc hp
    rw [hsel, mux_allon] at hpa hpb
    exact ⟨t, ht, hpa, hpb, hhist⟩
  · exact ⟨takeTick s, exec_tickSvc hc htf hie, htm, takeTick_tc_toNat hc hw⟩

theorem strobeParity_add_rate {c : Cfg} {u v : Word} (hc : c.admissible = true) (h : v.toNat = u.toNat + c.rate) :
    strobeParity c v = 1 - strobeParity c u := by
  have hsec : seconds c v = seconds c u + 1 := seconds_add_mul_rate hc (by rwa [Nat.one_mul])
  simp only [strobeParity, hsec]
  omega

theorem strobeParity_lastValue {c : Cfg} (hc : c.admissible = true) :
    strobeParity c (BitVec.ofNat 16 (c.w - 1)) = (c.w - 1) / c.rate % 2 := by
  rw [strobeParity, seconds, lastValue_toNat hc]

/-- Settles O36: `DRIVE` writes the pattern of the parity, which counts seconds modulo 2; at the wrap it is that of the last
second, a short one if `RATE` does not divide `W`. -/
theorem strobeAlternatesEverySecond : Obligations.StrobeAlternatesEverySecond := by
  unfold Obligations.StrobeAlternatesEverySecond
  refine ⟨fun s hc hp hsel => ?_, fun c u v hc h => strobeParity_add_rate hc h, fun c hc => ?_⟩
  · obtain ⟨t, ht, hpa, hpb, hhist⟩ := exec_drive_writes hc hp
    rw [hsel] at hpa hpb
    exact ⟨t, mux s.cfg .strobe s.snap, ht, knuckle_getElem?_strobeParity s.cfg s.snap, hpa, hpb, hhist⟩
  · have hlast := strobeParity_lastValue hc
    refine ⟨by simp [strobeParity, seconds], hlast, fun hdvd => ?_, fun hdvd => ?_⟩
    · have hsucc := lastSecond_succ_of_dvd hc hdvd
      omega
    · have heq := lastSecond_of_not_dvd hc hdvd
      omega

/-! ### The debounce: `N_WAIT` and the hold -/

theorem phase_eq_nWait (h : i.phase = some .nWait) : ∃ b, i = .nWait b := by
  cases i with
  | nWait b => exact ⟨b, rfl⟩
  | _ => cases h

/-- While TEST is held in the wait only ticks show, and no operation but ticks and samples of the wait is taken. -/
theorem wait_frame (h : runOps is s = .next t) (hp : s.ph = .nWait) (hreset : .reset ∉ is) (hrelease : .nWait false ∉ is) :
    TicksOnly s t ∧ ∀ i ∈ is, i.phase = none ∨ i = .nWait true := by
  have hops : ∀ i ∈ is, i ≠ .reset ∧ i ≠ .nWait false := fun i hi =>
    ⟨forall_ne_of_notMem hreset i hi, forall_ne_of_notMem hrelease i hi⟩
  refine runOps_snoc_induction (s := s) (P := fun is u => TicksOnly s u ∧ ∀ i ∈ is, i.phase = none ∨ i = .nWait true)
    hops ⟨TicksOnly.refl s, by simp⟩ ?_ h
  rintro is i u v ⟨hreset, hrelease⟩ ⟨hu, his⟩ hv
  have hpu : u.ph = .nWait := hu.ph.trans hp
  obtain ⟨hnone, htick⟩ | ⟨hphase, rfl⟩ := exec_tick_or_main hv hreset
  · exact ⟨hu.trans htick, by simpa [hnone, or_imp, forall_and] using his⟩
  · rw [hpu] at hphase
    obtain ⟨b, rfl⟩ := phase_eq_nWait hphase
    obtain rfl : b = true := by simpa using hrelease
    rw [effect_nWait_true hpu]
    exact ⟨hu, by simpa [or_imp, forall_and] using his⟩

/-- Settles O54: the frame of the wait, in which no `N_FF` occurs, so every service adds the increment of the flag held. -/
theorem busyWaitFreezesTheMainContext : Obligations.BusyWaitFreezesTheMainContext := by
  unfold Obligations.BusyWaitFreezesTheMainContext
  intro is s t hw hp hreset hrelease h
  obtain ⟨hticks, his⟩ := wait_frame h hp hreset hrelease
  have hops : ∀ i ∈ is, i ≠ .reset ∧ i ≠ .nFf (!s.ffl) := fun i hi => by
    refine ⟨forall_ne_of_notMem hreset i hi, ?_⟩
    rintro rfl
    simpa [Instr.phase] using his _ hi
  exact ⟨hticks.rest, (runOps_tc h hw hops).2⟩

/-- Settles O7: after the press the run is in the wait, whose frame keeps the outputs and the new `TM`. -/
theorem nTestTogglesTestModeOnPress : Obligations.NTestTogglesTestModeOnPress := by
  unfold Obligations.NTestTogglesTestModeOnPress
  intro t s hc
  have hother : s.ph ≠ .nTest → exec (.nTest t) s = .refused (.notEnabled (.nTest t)) := exec_of_other_phase hc rfl
  refine ⟨exec_of_phase hc rfl, hother, fun is u v hu hreset hrelease hv => ?_, fun hactive => hother fun hp => ?_, ?_,
    decode_of_significant (.nTest t)⟩
  · obtain rfl := exec_eq_effect hu
    obtain ⟨hticks, -⟩ := wait_frame hv rfl hreset hrelease
    exact ⟨hticks.pa, hticks.pb, hticks.hist, hticks.tm⟩
  · simp [stActive, hp] at hactive
  · cases t <;> rfl

/-- A held sample is a step to the same state, so any number of them is (42_input_debounce.md R78). -/
theorem runOps_hold (k : Nat) (hc : s.cfg.admissible = true) (hp : s.ph = .nWait) :
    runOps (List.replicate k (.nWait true)) s = .next s := by
  have hheld : exec (.nWait true) s = .next s := by rw [exec_of_phase hc rfl hp, effect_nWait_true hp]
  induction k with
  | zero => rfl
  | succ k ih => rw [List.replicate_succ, runOps_cons_of hheld, ih]

/-- Settles O8: a held sample is a step to the same state, whatever their number. -/
theorem nWaitHoldsUntilRelease : Obligations.NWaitHoldsUntilRelease := by
  unfold Obligations.NWaitHoldsUntilRelease
  refine ⟨fun t s hc => ⟨exec_of_phase hc rfl, exec_of_other_phase hc rfl, ?_, decode_of_significant (.nWait t)⟩,
    fun k s hc hp => ?_, fun s hc _ htf hie => exec_tickSvc hc htf hie⟩
  · cases t <;> rfl
  · exact runOps_hold k hc hp

/-! ### A press over every interleaving (42_input_debounce.md R79) -/

/-- The debounce reads neither `TC` nor `TF`, so ticks before a sample may as well come after it. -/
theorem TicksOnly.effect_nTest_true (h : TicksOnly s t) : TicksOnly (effect (.nTest true) s) (effect (.nTest true) t) := by
  refine ⟨?_, h.masked⟩
  rw [h.rest]
  rfl

theorem TicksOnly.effect_nWait_false (h : TicksOnly s t) :
    TicksOnly (effect (.nWait false) s) (effect (.nWait false) t) := by
  refine ⟨?_, h.masked⟩
  rw [h.rest]
  rfl

/-- After a press of any length the rest of the run starts, but for ticks, from the state with `TM` complemented. -/
theorem MainRun.press {k : Nat} (h : MainRun (.nTest true :: List.replicate k (.nWait true) ++ .nWait false :: ms) s t) :
    MainRun ms { s with tm := !s.tm, ph := .nSel } t := by
  obtain ⟨u, hu, -, hhold⟩ := h
  obtain ⟨v, hv, w, hw, -, hrest⟩ := MainRun.skip_hold hhold
  exact MainRun.of_ticksOnly ((hu.effect_nTest_true.trans (hv.trans hw)).effect_nWait_false) hrest

/-- From `N_SEL` straight to `DRIVE` is an all-on pass: `TM` is 1 and the event is the constant. -/
theorem MainRun.nSel_drive (h : MainRun [.nSel, .drive] s t) :
    s.tm = true ∧ t.tm = true ∧ t.hist = s.hist ++ [(portAByte t.cfg.allon, portBByte t.cfg.allon)] := by
  obtain ⟨u, hu, -, v, hv, hp, ht⟩ := h
  have hphase : (effect .nSel u).ph = .drive := by rw [← hv.ph, ← Option.some.inj hp]
  have htm : u.tm = true := by
    by_contra hn
    simp [effect_nSel, hn] at hphase
  have hsel : v.sel = .allon := by simp [hv.sel, effect_nSel, htm]
  have hword : mux v.cfg v.sel v.snap = t.cfg.allon := by rw [hsel, mux_allon, ht.cfg, effect_cfg]
  have hhist : t.hist = v.hist ++ [(portAByte (mux v.cfg v.sel v.snap), portBByte (mux v.cfg v.sel v.snap))] := ht.hist
  refine ⟨hu.tm.symm.trans htm, ?_, ?_⟩
  · rw [ht.tm, effect_tm v (by simp) (by simp), hv.tm, effect_tm u (by simp) (by simp), htm]
  · rw [hhist, hword, hv.hist, effect_hist u (by simp), hu.hist]

/-- From `N_SEL` through the snapshot to `DRIVE` is a schedule pass: `TM` is 0 and the event is the schedule's word. -/
theorem MainRun.nSel_snapshot_drive (h : MainRun [.nSel, .snapDi, .snapRd, .snapEi, .drive] s t) :
    s.tm = false ∧ t.tm = false ∧
    t.hist = s.hist ++ [(portAByte (mux t.cfg .sched t.snap), portBByte (mux t.cfg .sched t.snap))] := by
  obtain ⟨u, hu, -, v, hv, hp, w, hw, -, x, hx, -, y, hy, -, ht⟩ := h
  have hphase : (effect .nSel u).ph = .snapDi := by rw [← hv.ph, ← Option.some.inj hp]
  have htm : u.tm = false := by
    by_contra hn
    simp [effect_nSel, hn] at hphase
  have hsel : y.sel = .sched := by
    rw [hy.sel, effect_sel x (by simp) (by simp) (by simp), hx.sel, effect_sel w (by simp) (by simp) (by simp), hw.sel,
      effect_sel v (by simp) (by simp) (by simp), hv.sel]
    simp [effect_nSel, htm]
  have hword : mux y.cfg y.sel y.snap = mux t.cfg .sched t.snap := by
    rw [hsel, ht.cfg, effect_cfg, ht.snap, effect_snap y (by simp) (by simp)]
  have hhist : t.hist = y.hist ++ [(portAByte (mux y.cfg y.sel y.snap), portBByte (mux y.cfg y.sel y.snap))] := ht.hist
  refine ⟨hu.tm.symm.trans htm, ?_, ?_⟩
  · rw [ht.tm, effect_tm y (by simp) (by simp), hy.tm, effect_tm x (by simp) (by simp), hx.tm,
      effect_tm w (by simp) (by simp), hw.tm, effect_tm v (by simp) (by simp), hv.tm, effect_tm u (by simp) (by simp), htm]
  · rw [hhist, hword, hy.hist, effect_hist x (by simp), hx.hist, effect_hist w (by simp), hw.hist,
      effect_hist v (by simp), hv.hist, effect_hist u (by simp), hu.hist]

/-- Settles O52: the press complements `TM` whatever its length, and the pass that follows reads the new `TM`. -/
theorem oneToggleWhateverTheHold : Obligations.OneToggleWhateverTheHold := by
  unfold Obligations.OneToggleWhateverTheHold
  intro k is s t _ hreset h
  have hrun := mainRun_mainOps h hreset
  refine ⟨fun hm => ?_, fun hm => ?_, fun hm => ?_⟩
  all_goals
    rw [hm] at hrun
    have hpressed := MainRun.press hrun
  · exact ⟨hpressed.tm, hpressed.ph, hpressed.ffl, hpressed.pa, hpressed.pb, hpressed.hist⟩
  · obtain ⟨hold, hnew, hhist⟩ := hpressed.nSel_drive
    exact ⟨by simpa using hold, hnew, hhist⟩
  · obtain ⟨hold, hnew, hhist⟩ := hpressed.nSel_snapshot_drive
    exact ⟨by simpa using hold, hnew, hhist⟩

/-! ### Whole passes (30_encoding.md R61) -/

/-- `DRIVE` with the source that `SEL` holds (44_output_mux.md R91). -/
theorem exec_drive {sel : Sel} (hc : s.cfg.admissible = true) (hp : s.ph = .drive) (hsel : s.sel = sel) :
    exec .drive s = .next { s with
      pa := portAByte (mux s.cfg sel s.snap)
      pb := portBByte (mux s.cfg sel s.snap)
      hist := s.hist ++ [(portAByte (mux s.cfg sel s.snap), portBByte (mux s.cfg sel s.snap))]
      ph := if selfTestSource sel then .stHead else .nFf } := by
  subst hsel
  exact exec_of_phase hc rfl hp

/-- The snapshot and the drive of a pass: the source's word for the counter is driven as one event. -/
theorem runOps_snapshot_drive {sel : Sel} (hc : s.cfg.admissible = true) (hp : s.ph = .snapDi) (hsel : s.sel = sel) :
    runOps [.snapDi, .snapRd, .snapEi, .drive] s = .next { s with
      snap := s.tc
      ie := true
      pa := portAByte (mux s.cfg sel s.tc)
      pb := portBByte (mux s.cfg sel s.tc)
      hist := s.hist ++ [(portAByte (mux s.cfg sel s.tc), portBByte (mux s.cfg sel s.tc))]
      ph := if selfTestSource sel then .stHead else .nFf } := by
  refine (runOps_cons_of (exec_of_phase hc rfl hp)).trans ?_
  refine (runOps_cons_of (exec_of_phase (by exact hc) rfl rfl)).trans ?_
  refine (runOps_cons_of (exec_of_phase (by exact hc) rfl rfl)).trans ?_
  exact runOps_cons_of (exec_drive (by exact hc) rfl hsel)

/-- A pass of the normal loop up to `N_SEL`, TEST released. -/
theorem runOps_to_nSel {f : Bool} (hc : s.cfg.admissible = true) (hp : s.ph = .nFf) :
    runOps (.nFf f :: .nTest false :: is) s = runOps is { s with ffl := f, ph := .nSel } := by
  refine (runOps_cons_of (exec_of_phase hc rfl hp)).trans ?_
  exact runOps_cons_of (exec_of_phase (by exact hc) rfl rfl)

theorem effect_nSel_of_normal (h : s.tm = false) : effect .nSel s = (s.setSel .sched).setPh .snapDi := by
  simp [effect, h]

theorem effect_nSel_of_test (h : s.tm = true) : effect .nSel s = (s.setSel .allon).setPh .drive := by
  simp [effect, h]

theorem runOps_passSched (f : Bool) (hc : s.cfg.admissible = true) (hp : s.ph = .nFf) (htm : s.tm = false) :
    runOps (expand (.passSched f)) s = .next { s with
      snap := s.tc
      ffl := f
      ie := true
      sel := .sched
      pa := portAByte (mux s.cfg .sched s.tc)
      pb := portBByte (mux s.cfg .sched s.tc)
      hist := s.hist ++ [(portAByte (mux s.cfg .sched s.tc), portBByte (mux s.cfg .sched s.tc))] } := by
  refine (runOps_to_nSel hc hp).trans ?_
  refine (runOps_cons_of (exec_of_phase (by exact hc) rfl rfl)).trans ?_
  rw [effect_nSel_of_normal (by exact htm), runOps_snapshot_drive (sel := .sched) (by exact hc) rfl rfl, hp]
  rfl

theorem runOps_passAllon (f : Bool) (hc : s.cfg.admissible = true) (hp : s.ph = .nFf) (htm : s.tm = true) :
    runOps (expand (.passAllon f)) s = .next { s with
      ffl := f
      sel := .allon
      pa := portAByte s.cfg.allon
      pb := portBByte s.cfg.allon
      hist := s.hist ++ [(portAByte s.cfg.allon, portBByte s.cfg.allon)] } := by
  refine (runOps_to_nSel hc hp).trans ?_
  refine (runOps_cons_of (exec_of_phase (by exact hc) rfl rfl)).trans ?_
  rw [effect_nSel_of_test (by exact htm), hp]
  exact runOps_cons_of (exec_drive (sel := .allon) (by exact hc) rfl rfl)

theorem runOps_passSt (b : Bool) (hc : s.cfg.admissible = true) (hp : s.ph = .stHead) :
    runOps (expand (.passSt b)) s = .next { s with
      snap := s.tc
      ie := true
      sel := if b then .chase else .strobe
      pa := portAByte (mux s.cfg (if b then .chase else .strobe) s.tc)
      pb := portBByte (mux s.cfg (if b then .chase else .strobe) s.tc)
      hist := s.hist ++ [(portAByte (mux s.cfg (if b then .chase else .strobe) s.tc),
        portBByte (mux s.cfg (if b then .chase else .strobe) s.tc))] } := by
  refine (runOps_cons_of (exec_of_phase hc rfl hp)).trans ?_
  refine (runOps_cons_of (exec_of_phase (by exact hc) rfl rfl)).trans ?_
  refine (runOps_snapshot_drive (sel := if b then .chase else .strobe) (by exact hc) rfl rfl).trans ?_
  rw [hp]
  cases b <;> rfl

theorem runOps_press (f : Bool) (k : Nat) (hc : s.cfg.admissible = true) (hp : s.ph = .nFf) :
    runOps (expand (.press f k)) s = .next { s with ffl := f, tm := !s.tm, ph := .nSel } := by
  rw [expand, List.append_assoc]
  refine (runOps_cons_of (exec_of_phase hc rfl hp)).trans ?_
  refine (runOps_cons_of (exec_of_phase (by exact hc) rfl rfl)).trans ?_
  refine (runOps_append_of (runOps_hold k (by exact hc) rfl)).trans ?_
  exact runOps_cons_of (exec_of_phase (by exact hc) rfl rfl)

/-- Settles O51: the end state of each pass, with the table entry that the multiplexer reads. -/
theorem passesDriveTheirSource : Obligations.PassesDriveTheirSource := by
  unfold Obligations.PassesDriveTheirSource
  refine ⟨fun f s hc hp htm => ⟨_, _, runOps_passSched f hc hp htm, sched_getElem?_hour s.cfg s.tc, rfl⟩,
    fun f s hc hp htm => ⟨_, runOps_passAllon f hc hp htm, rfl⟩, fun b s hc hp => ?_,
    fun f k s hc hp => runOps_press f k hc hp⟩
  refine ⟨_, _, runOps_passSt b hc hp, ?_, rfl⟩
  cases b
  · exact knuckle_getElem?_strobeParity s.cfg s.tc
  · exact selftest_getElem?_chaseIndex hc s.tc

end Sys2Proof.Machine
end

section
/-! PROOFS. The views (10_state.md R24, R27, R28) and the sequencer over runs (43_mode_sequencer.md R88 to R90): self-test is one
way, what it drives, one `DRIVE` a pass, and where `SEL` was written. -/

namespace Sys2Proof.Machine

variable {i : Instr} {is : List Instr} {s t u : State}

/-! ### The views -/

theorem csr_layout_getLsbD (sel : BitVec 2) (ph : BitVec 4) (ie tf ffl tm : Bool) (k : Nat) :
    (0#6 ++ BitVec.ofBool ie ++ BitVec.ofBool tf ++ BitVec.ofBool ffl ++ BitVec.ofBool tm ++ sel ++ ph).getLsbD k =
      if k < 4 then ph.getLsbD k else if k < 6 then sel.getLsbD (k - 4) else
      if k = 6 then tm else if k = 7 then ffl else if k = 8 then tf else if k = 9 then ie else false := by
  simp only [BitVec.getLsbD_append]
  by_cases h : k < 10
  · interval_cases k <;> simp
  · grind

/-- Each bit of `CSR` (10_state.md R24). -/
theorem csr_getLsbD (s : State) (k : Nat) : (csr s).getLsbD k =
    if k < 4 then s.ph.code.getLsbD k else if k < 6 then (selCode s.sel).getLsbD (k - 4) else
    if k = 6 then s.tm else if k = 7 then s.ffl else if k = 8 then s.tf else if k = 9 then s.ie else false :=
  csr_layout_getLsbD (selCode s.sel) s.ph.code s.ie s.tf s.ffl s.tm k

theorem stActive_iff_mode (s : State) : stActive s = true ↔ modeCode (mode s.ph s.sel s.tm) ≤ 2 := by
  cases hp : s.ph with
  | stHead | stSel => simp [stActive, mode, modeCode, hp]
  | snapDi | snapRd | snapEi | drive =>
    rw [stActive_of_resolved (by rw [hp]; rfl), selfTestSource_iff]
    cases s.sel <;> simp [mode, modeCode]
  | nFf | nTest | nWait | nSel => cases s.tm <;> simp [stActive, mode, modeCode, hp]

/-- Outside self-test the mode view tells `TM`: directly in the normal loop's own phases, and through `SEL` in the others. -/
theorem mode_testmodeOn_iff (hinv : Inv s) (hactive : stActive s = false) :
    mode s.ph s.sel s.tm = .testmodeOn ↔ s.tm = true := by
  cases hp : s.ph with
  | stHead | stSel => simp [stActive, hp] at hactive
  | snapDi | snapRd | snapEi | drive =>
    have hresolved : resolvedPhase s.ph = true := by rw [hp]; rfl
    obtain ⟨hsched, hallon⟩ := hinv.sourceMatchesMode hresolved
    rw [stActive_of_resolved hresolved] at hactive
    cases hsel : s.sel with
    | sched => simp [mode, hsched hsel]
    | allon => simp [mode, hallon hsel]
    | chase | strobe =>
      rw [hsel] at hactive
      exact absurd hactive (by decide)
  | nFf | nTest | nWait | nSel => cases s.tm <;> simp [mode]

/-- Settles O60: `CSR` bit by bit, the other two views phase by phase. -/
theorem viewsShowTheControlState : Obligations.ViewsShowTheControlState := by
  unfold Obligations.ViewsShowTheControlState
  refine ⟨fun s => ⟨?_, ?_, csr_getLsbD s 6, csr_getLsbD s 7, csr_getLsbD s 8, csr_getLsbD s 9, ?_⟩, stActive_iff_mode,
    fun s => mode_testmodeOn_iff⟩
  · ext k hk
    rw [BitVec.getElem_extractLsb', csr_getLsbD, if_pos (by omega), Nat.zero_add]
    rfl
  · ext k hk
    rw [BitVec.getElem_extractLsb', csr_getLsbD, if_neg (by omega), if_pos (by omega), Nat.add_sub_cancel_left]
    rfl
  · ext k hk
    rw [BitVec.getElem_extractLsb', csr_getLsbD]
    grind

/-! ### Self-test is left once (43_mode_sequencer.md R88) -/

/-- Settles O46: every operation but `RESET` keeps self-test inactive; the rest is what inactive means at each phase. -/
theorem selfTestIsOneWay : Obligations.SelfTestIsOneWay := by
  unfold Obligations.SelfTestIsOneWay
  refine ⟨fun s t h => ?_, fun is s t hs hreset h => ?_⟩
  · rw [exec_eq_effect h]
    rfl
  · have hkeeps : ∀ i ∈ is, ∀ u v, exec i u = .next v → stActive u = false → stActive v = false := by
      intro i hi u v hv hu
      obtain ⟨-, htick⟩ | ⟨hp, rfl⟩ := exec_tick_or_main hv (forall_ne_of_notMem hreset i hi)
      · rw [htick.stActive, hu]
      · exact stActive_effect_of_phase hp hu
    have ht : stActive t = false := runOps_induction (P := fun u => stActive u = false) hkeeps h hs
    refine ⟨ht, fun hp => ?_, fun hp => ?_, fun hp => ?_⟩
    · simp [stActive, hp] at ht
    · simp [stActive, hp] at ht
    · rw [stActive_of_resolved (by rw [hp]; rfl)] at ht
      cases hsel : t.sel with
      | sched => exact .inl rfl
      | allon => exact .inr rfl
      | chase | strobe =>
        rw [hsel] at ht
        exact absurd ht (by decide)

/-! ### From `RESET` to the first `N_FF` (43_mode_sequencer.md R89) -/

/-- Settles O47: the reset state has `TC` and `FFL` at 0, and no operation of the run writes `FFL`. -/
theorem fastForwardIsDeadBeforeTheNormalLoop : Obligations.FastForwardIsDeadBeforeTheNormalLoop := by
  unfold Obligations.FastForwardIsDeadBeforeTheNormalLoop
  intro is r s t hr hff hreset h
  obtain ⟨-, ⟨hw, -⟩, -⟩ := admissible_iff.1 (exec_admissible hr)
  obtain rfl := exec_eq_effect hr
  have hops : ∀ i ∈ is, i ≠ .reset ∧ i ≠ .nFf (!(effect .reset r).ffl) := fun i hi =>
    ⟨forall_ne_of_notMem hreset i hi, forall_ne_of_notMem (hff _) i hi⟩
  obtain ⟨hffl, htc⟩ := runOps_tc h (s := effect .reset r) hw hops
  refine ⟨hffl, ?_⟩
  rw [runOps_cfg h, htc]
  simp [effect, powerOn]

/-! ### What self-test drives (43_mode_sequencer.md R88, 95_test_vectors.md S9) -/

/-- The pair driven for a ROM word (30_encoding.md R55). -/
def pairOf (e : Word) : PortWrite := (portAByte e, portBByte e)

/-- Self-test goes on with both flags off, and every event since the history `hist` is a self-test pattern. -/
structure SelfTestOnly (hist : List PortWrite) (s : State) : Prop where
  active : stActive s = true
  ffl : s.ffl = false
  tm : s.tm = false
  events : ∀ ev ∈ s.hist, ev ∈ hist ∨ ∃ e ∈ s.cfg.selftest ++ s.cfg.knuckle.toList, ev = pairOf e

/-- The word of a self-test source is an entry of the self-test table or a strobe pattern. -/
theorem mux_mem_selfTest {c : Cfg} {sel : Sel} (hc : c.admissible = true) (hsel : selfTestSource sel = true) (snap : Word) :
    mux c sel snap ∈ c.selftest ++ c.knuckle.toList := by
  obtain rfl | rfl := (selfTestSource_iff sel).1 hsel
  · exact List.mem_append_left _ (List.mem_of_getElem? (selftest_getElem?_chaseIndex hc snap))
  · exact List.mem_append_right _ (List.mem_of_getElem? (knuckle_getElem?_strobeParity c snap))

theorem SelfTestOnly.of_ticksOnly {hist : List PortWrite} (hs : SelfTestOnly hist s) (h : TicksOnly s t) :
    SelfTestOnly hist t :=
  ⟨h.stActive.trans hs.active, h.ffl.trans hs.ffl, h.tm.trans hs.tm, by rw [h.hist, h.cfg]; exact hs.events⟩

theorem SelfTestOnly.effect_of_phase {hist : List PortWrite} (hs : SelfTestOnly hist s) (hc : s.cfg.admissible = true)
    (hp : i.phase = some s.ph) (hi : i ≠ .stHead false) : SelfTestOnly hist (effect i s) := by
  have hactive := hs.active
  cases i with
  | tickSvc | tickReq | reset => cases hp
  | nFf _ | nTest _ | nWait _ | nSel => simp [stActive, ← Option.some.inj hp] at hactive
  | stHead f =>
    obtain rfl : f = true := by simpa using hi
    exact ⟨rfl, hs.ffl, hs.tm, hs.events⟩
  | stSel b => exact ⟨by cases b <;> simp [effect, stActive, selfTestSource, selCode], hs.ffl, hs.tm, hs.events⟩
  | snapDi | snapRd | snapEi =>
    have hsel : selfTestSource s.sel = true := by simpa [stActive, ← Option.some.inj hp] using hactive
    exact ⟨hsel, hs.ffl, hs.tm, hs.events⟩
  | drive =>
    have hsel : selfTestSource s.sel = true := by simpa [stActive, ← Option.some.inj hp] using hactive
    refine ⟨by simp [effect, hsel, stActive], hs.ffl, hs.tm, fun ev hev => ?_⟩
    obtain hold | hnew := List.mem_append.1 hev
    · exact hs.events ev hold
    · exact .inr ⟨mux s.cfg s.sel s.snap, mux_mem_selfTest hc hsel s.snap, List.mem_singleton.1 hnew⟩

theorem SelfTestOnly.powerOn {hist : List PortWrite} (hs : SelfTestOnly hist s) : SelfTestOnly hist (powerOn s) :=
  ⟨rfl, rfl, rfl, hs.events⟩

/-- Settles O48: every operation but `ST_HEAD f=0` keeps self-test going, `RESET` included, and `DRIVE` reads its tables. -/
theorem noScheduleBeforeFfIsReleased : Obligations.NoScheduleBeforeFfIsReleased := by
  unfold Obligations.NoScheduleBeforeFfIsReleased
  intro is r s t hr hrelease h
  have hstart : SelfTestOnly s.hist s := by
    rw [exec_eq_effect hr]
    exact ⟨rfl, rfl, rfl, fun _ hev => .inl hev⟩
  have hkeeps : ∀ i ∈ is, ∀ u v, exec i u = .next v → SelfTestOnly s.hist u → SelfTestOnly s.hist v := by
    intro i hi u v hv hu
    by_cases hreset : i = .reset
    · subst hreset
      rw [exec_eq_effect hv]
      exact hu.powerOn
    · obtain ⟨-, htick⟩ | ⟨hp, rfl⟩ := exec_tick_or_main hv hreset
      · exact hu.of_ticksOnly htick
      · exact hu.effect_of_phase (exec_admissible hv) hp (forall_ne_of_notMem hrelease i hi)
  obtain ⟨hactive, hffl, htm, hevents⟩ := runOps_induction hkeeps h hstart
  exact ⟨hactive, hffl, htm, hevents⟩

/-! ### Passes and drives (43_mode_sequencer.md R90) -/

/-- 1 while a pass is in progress, 0 at a loop head. -/
def passInProgress (s : State) : Nat := if s.ph = .stHead ∨ s.ph = .nFf then 0 else 1

/-- The number of passes that the operations begin. -/
def passesBegun (is : List Instr) : Nat :=
  is.count (.stHead true) + is.count (.nFf true) + is.count (.nFf false)

theorem passesBegun_snoc (is : List Instr) (i : Instr) : passesBegun (is ++ [i]) = passesBegun is + passesBegun [i] := by
  simp only [passesBegun, List.count_append]
  omega

/-- A main operation begins a pass, ends it with `DRIVE`, or stays in it. -/
theorem pass_balance_effect (hp : i.phase = some s.ph) :
    passesBegun [i] + passInProgress s = [i].count .drive + passInProgress (effect i s) := by
  cases i with
  | tickSvc | tickReq | reset => cases hp
  | stHead b | nFf b | nTest b | nWait b =>
    cases b <;> simp [passesBegun, passInProgress, effect, ← Option.some.inj hp]
  | nSel => cases htm : s.tm <;> simp [passesBegun, passInProgress, effect, htm, ← Option.some.inj hp]
  | drive =>
    cases hsel : selfTestSource s.sel <;> simp [passesBegun, passInProgress, effect, hsel, ← Option.some.inj hp]
  | stSel _ | snapDi | snapRd | snapEi => simp [passesBegun, passInProgress, effect, ← Option.some.inj hp]

/-- A tick belongs to no pass. -/
theorem pass_balance_tick (hi : i.phase = none) (h : TicksOnly s t) :
    passesBegun [i] + passInProgress s = [i].count .drive + passInProgress t := by
  cases i with
  | tickSvc | tickReq | reset => simp [passesBegun, passInProgress, h.ph]
  | _ => cases hi

theorem pass_balance_exec (h : exec i s = .next t) (hreset : i ≠ .reset) :
    passesBegun [i] + passInProgress s = [i].count .drive + passInProgress t := by
  obtain ⟨hi, htick⟩ | ⟨hp, rfl⟩ := exec_tick_or_main h hreset
  · exact pass_balance_tick hi htick
  · exact pass_balance_effect hp

/-- Each `DRIVE` is one event, and nothing else is (20_memory.md R41). -/
theorem hist_length_exec (h : exec i s = .next t) : t.hist.length = s.hist.length + [i].count .drive := by
  rw [exec_eq_effect h]
  by_cases hi : i = .drive
  · subst hi
    simp [effect, State.portWrite]
  · simp [effect_hist s hi, hi]

/-- Settles O49: one step keeps the balance of passes and drives, and of drives and events; a run adds them up. -/
theorem everyPassDrivesExactlyOnce : Obligations.EveryPassDrivesExactlyOnce := by
  unfold Obligations.EveryPassDrivesExactlyOnce
  intro is s t hreset h
  change passesBegun is + passInProgress s = is.count .drive + passInProgress t ∧
    t.hist.length = s.hist.length + is.count .drive
  refine runOps_snoc_induction (s := s)
    (P := fun is u => passesBegun is + passInProgress s = is.count .drive + passInProgress u ∧
      u.hist.length = s.hist.length + is.count .drive)
    (forall_ne_of_notMem hreset) ⟨by simp [passesBegun], by simp⟩ ?_ h
  rintro is i u v hi ⟨hpass, hhist⟩ hv
  have hbalance := pass_balance_exec hv hi
  have hlength := hist_length_exec hv
  rw [passesBegun_snoc, List.count_append]
  exact ⟨by omega, by omega⟩

/-! ### Where `SEL` was written (10_state.md R26 (e), (f)) -/

/-- Some `ST_SEL` or `N_SEL` of the run stands after the last loop head. -/
def SelectedInPass (is : List Instr) (s : State) : Prop :=
  ∃ (before after : List Instr) (i : Instr), is = before ++ i :: after ∧ ((∃ b, i = .stSel b) ∨ i = .nSel) ∧
    (∀ j ∈ after, j.phase ≠ some .stHead ∧ j.phase ≠ some .nFf) ∧
    (s.ph = .drive → s.sel = .allon → .snapDi ∉ after ∧ .snapRd ∉ after ∧ .snapEi ∉ after)

/-- `SEL` has just been written. -/
theorem selectedInPass_snoc_select (is : List Instr) (hi : (∃ b, i = .stSel b) ∨ i = .nSel) (s : State) :
    SelectedInPass (is ++ [i]) s :=
  ⟨is, [], i, rfl, hi, by simp, by simp⟩

/-- A further operation of the same pass that keeps phase and source, or leads to a state that is not an all-on drive. -/
theorem SelectedInPass.snoc (h : SelectedInPass is s) (hhead : i.phase ≠ some .stHead ∧ i.phase ≠ some .nFf)
    (hdrive : t.ph = .drive → t.sel = .allon → i.phase = none ∧ s.ph = .drive ∧ s.sel = .allon) :
    SelectedInPass (is ++ [i]) t := by
  obtain ⟨before, after, j, rfl, hj, hafter, hsnap⟩ := h
  refine ⟨before, after ++ [i], j, by simp, hj, ?_, fun hp hsel => ?_⟩
  · intro k hk
    obtain hk | hk := List.mem_append.1 hk
    · exact hafter k hk
    · rwa [List.mem_singleton.1 hk]
  · obtain ⟨hnone, hph, hall⟩ := hdrive hp hsel
    obtain ⟨hdi, hrd, hei⟩ := hsnap hph hall
    refine ⟨?_, ?_, ?_⟩
    all_goals
      rw [List.mem_append, List.mem_singleton, not_or]
      refine ⟨by assumption, ?_⟩
      rintro rfl
      cases hnone

/-- What a run from a loop head keeps: in a resolved phase `SEL` was written in this pass, and in a snapshot phase it is not
all-on, so that an all-on drive comes straight from `N_SEL`. -/
def SelectKept (is : List Instr) (s : State) : Prop :=
  resolvedPhase s.ph = true → SelectedInPass is s ∧ (s.ph ≠ .drive → s.sel ≠ .allon)

theorem SelectKept.snoc_tick (h : SelectKept is s) (hi : i.phase = none) (ht : TicksOnly s t) :
    SelectKept (is ++ [i]) t := by
  intro hres
  rw [ht.ph] at hres
  obtain ⟨hselected, hsnapshot⟩ := h hres
  refine ⟨hselected.snoc (by simp [hi]) fun hp hsel => ⟨hi, ht.ph ▸ hp, ht.sel ▸ hsel⟩, ?_⟩
  rwa [ht.ph, ht.sel]

theorem SelectKept.snoc_main (h : SelectKept is s) (hp : i.phase = some s.ph) : SelectKept (is ++ [i]) (effect i s) := by
  intro hres
  cases i with
  | tickSvc | tickReq | reset => cases hp
  | stHead b | nTest b | nWait b => cases b <;> cases hres
  | nFf _ => cases hres
  | drive => cases hsel : selfTestSource s.sel <;> simp [effect, hsel, resolvedPhase] at hres
  | stSel b => exact ⟨selectedInPass_snoc_select is (.inl ⟨b, rfl⟩) _, fun _ => by cases b <;> simp [effect]⟩
  | nSel =>
    refine ⟨selectedInPass_snoc_select is (.inr rfl) _, ?_⟩
    cases htm : s.tm <;> simp [effect, htm]
  | snapDi | snapRd | snapEi =>
    obtain ⟨hselected, hsnapshot⟩ := h (by rw [← Option.some.inj hp]; rfl)
    have hsel := hsnapshot (by simp [← Option.some.inj hp])
    exact ⟨hselected.snoc (by simp [Instr.phase]) fun _ hall => absurd hall hsel, fun _ => hsel⟩

/-- Settles O50: at a loop head there is nothing to keep, and every operation keeps it. -/
theorem selectIsWrittenInTheSamePass : Obligations.SelectIsWrittenInTheSamePass := by
  unfold Obligations.SelectIsWrittenInTheSamePass
  intro is s t hhead hreset h hres
  have hstart : SelectKept [] s := fun hres => by
    obtain hp | hp := hhead <;> simp [hp, resolvedPhase] at hres
  have hkept : SelectKept is t := by
    refine runOps_snoc_induction (P := SelectKept) (forall_ne_of_notMem hreset) hstart (fun is i u v hi hu hv => ?_) h
    obtain ⟨hnone, htick⟩ | ⟨hp, rfl⟩ := exec_tick_or_main hv hi
    · exact hu.snoc_tick hnone htick
    · exact hu.snoc_main hp
  exact (hkept hres).1

end Sys2Proof.Machine
end

section
/-! PROOFS. Infinite executions (70_reset_and_hazards.md sections 1 and 4): the boot decision, clean presses, and the fairness of
the tick unit, weak and strong. -/

namespace Sys2Proof.Machine

variable {e : Execution} {i : Instr} {s t : State}

theorem execution_inv (h0 : Inv (e.state 0)) (n : Nat) : Inv (e.state n) := by
  induction n with
  | zero => exact h0
  | succ n ih => exact inv_of_exec ih (e.steps n)

/-! ### The boot decision (70_reset_and_hazards.md R116) -/

theorem phase_eq_stHead (h : i.phase = some .stHead) : ∃ f, i = .stHead f := by
  cases i with
  | stHead f => exact ⟨f, rfl⟩
  | _ => cases h

/-- Settles O59: the first `ST_HEAD` samples FF, whose level is that at the `RESET`. -/
theorem ffAtPowerUpDecidesSelfTest : Obligations.FfAtPowerUpDecidesSelfTest := by
  unfold Obligations.FfAtPowerUpDecidesSelfTest
  intro e pins hboot i j hfirst
  obtain ⟨-, hij, hphase, -⟩ := id hfirst
  obtain ⟨f, hop⟩ := phase_eq_stHead hphase
  have hf : f = pins.ff i := by
    rw [← hboot i j hfirst j hij.le le_rfl]
    exact pins.seenFf j f (by rw [hop]; rfl)
  rw [exec_eq_effect (e.steps j), hop, ← hf]
  cases f <;> simp [effect]

/-! ### Clean presses (42_input_debounce.md R80) -/

theorem testSample_eq_some_iff {n : Nat} {b : Bool} :
    testSample e n = some b ↔ e.op n = .nTest b ∨ e.op n = .nWait b := by
  unfold testSample
  cases e.op n <;> simp

/-- The wait is entered by a press and kept by held samples. -/
theorem eq_of_effect_ph_nWait (hp : i.phase = some s.ph) (h : (effect i s).ph = .nWait) : i = .nTest true ∨ i = .nWait true := by
  cases i with
  | tickSvc | tickReq | reset => cases hp
  | nTest b =>
    cases b with
    | true => exact .inl rfl
    | false => cases h
  | nWait b =>
    cases b with
    | true => exact .inr rfl
    | false => cases h
  | stHead b => cases b <;> cases h
  | stSel _ | nFf _ | snapDi | snapRd | snapEi => cases h
  | nSel => cases htm : s.tm <;> simp [effect, htm] at h
  | drive => cases hsel : selfTestSource s.sel <;> simp [effect, hsel] at h

/-- The wait is left by a released sample only. -/
theorem ph_nWait_of_exec (h : exec i s = .next t) (hp : s.ph = .nWait) (hreset : i ≠ .reset) (hrelease : i ≠ .nWait false) :
    t.ph = .nWait := by
  obtain ⟨-, htick⟩ | ⟨hphase, rfl⟩ := exec_tick_or_main h hreset
  · exact htick.ph.trans hp
  · rw [hp] at hphase
    obtain ⟨b, rfl⟩ := phase_eq_nWait hphase
    obtain rfl : b = true := by simpa using hrelease
    rfl

/-- After power-on, a state in the wait has been in it since the press that entered it. -/
theorem waiting_since_press (h0 : e.op 0 = .reset) (hcycle : NoPowerCycle e) {n : Nat}
    (hp : (e.state (n + 1)).ph = .nWait) :
    ∃ a ≤ n, e.op a = .nTest true ∧ ∀ b, a < b → b ≤ n + 1 → (e.state b).ph = .nWait := by
  induction n with
  | zero =>
    rw [exec_eq_effect (e.steps 0), h0] at hp
    cases hp
  | succ n ih =>
    have hkeep (hprev : (e.state (n + 1)).ph = .nWait) :
        ∃ a ≤ n + 1, e.op a = .nTest true ∧ ∀ b, a < b → b ≤ n + 1 + 1 → (e.state b).ph = .nWait := by
      obtain ⟨a, ha, hop, hwait⟩ := ih hprev
      refine ⟨a, by omega, hop, fun b hab hb => ?_⟩
      obtain hb | rfl := hb.lt_or_eq
      · exact hwait b hab (by omega)
      · exact hp
    obtain ⟨-, htick⟩ | ⟨hphase, heff⟩ := exec_tick_or_main (e.steps (n + 1)) (hcycle _ (by omega))
    · exact hkeep (htick.ph.symm.trans hp)
    · rw [heff] at hp
      obtain hop | hop := eq_of_effect_ph_nWait hphase hp
      · refine ⟨n + 1, le_rfl, hop, fun b hab hb => ?_⟩
        obtain rfl : b = n + 1 + 1 := by omega
        rw [heff]
        exact hp
      · exact hkeep (exec_phase (e.steps (n + 1)) (by rw [hop]; rfl))

/-- Without a released sample the wait that a press enters goes on. -/
theorem waiting_until_release (hcycle : NoPowerCycle e) {a c : Nat} (hpress : e.op a = .nTest true)
    (hheld : ∀ b, a < b → b < c → e.op b ≠ .nWait false) {b : Nat} (hab : a < b) (hbc : b ≤ c) :
    (e.state b).ph = .nWait := by
  induction b, hab using Nat.le_induction with
  | base =>
    rw [exec_eq_effect (e.steps a), hpress]
    rfl
  | succ b hb ih =>
    exact ph_nWait_of_exec (e.steps b) (ih (by omega)) (hcycle b (by omega)) (hheld b hb (by omega))

/-- Between two presses of the debounce there is a released sample of the wait. -/
theorem released_between_presses (hcycle : NoPowerCycle e) {a c : Nat} (hac : a < c) (ha : e.op a = .nTest true)
    (hc : e.op c = .nTest true) : ∃ b, a < b ∧ b < c ∧ e.op b = .nWait false := by
  by_contra hnone
  have hheld : ∀ b, a < b → b < c → e.op b ≠ .nWait false := fun b hab hbc hop => hnone ⟨b, hab, hbc, hop⟩
  have hwait := waiting_until_release hcycle ha hheld hac le_rfl
  have hphase : (e.state c).ph = .nTest := exec_phase (e.steps c) (by rw [hc]; rfl)
  rw [hwait] at hphase
  cases hphase

/-- A physical press is sampled by one press of the debounce at most: two would have a released sample between them. -/
theorem press_unique {press : Nat → Option Nat} (hcycle : NoPowerCycle e) (hclean : CleanPress e press) {a c p : Nat}
    (hpa : press a = some p) (hpc : press c = some p) (ha : e.op a = .nTest true) (hc : e.op c = .nTest true) : ¬a < c := by
  intro hac
  obtain ⟨b, hab, hbc, hb⟩ := released_between_presses hcycle hac ha hc
  exact hclean.unbroken a b c p hab hbc hpa hpc (testSample_eq_some_iff.2 (.inl ha)) (testSample_eq_some_iff.2 (.inl hc))
    (testSample_eq_some_iff.2 (.inr hb))

/-- A physical press is sampled by a press of the debounce: a held sample of the wait belongs to the press that entered the
wait, since no `N_TEST t=0` lies between them to separate two. -/
theorem press_exists {press : Nat → Option Nat} (h0 : e.op 0 = .reset) (hcycle : NoPowerCycle e)
    (hclean : CleanPress e press) {n p : Nat} (hn : press n = some p) : ∃ a, press a = some p ∧ e.op a = .nTest true := by
  obtain ⟨m, hm, hsample⟩ := hclean.sampled n p hn
  obtain hop | hop := testSample_eq_some_iff.1 hsample
  · exact ⟨m, hm, hop⟩
  · cases m with
    | zero => simp [h0] at hop
    | succ m =>
      have hwait : (e.state (m + 1)).ph = .nWait := exec_phase (e.steps (m + 1)) (by rw [hop]; rfl)
      obtain ⟨a, ham, ha, hsince⟩ := waiting_since_press h0 hcycle hwait
      have hsample' : testSample e a = some true := testSample_eq_some_iff.2 (.inl ha)
      obtain ⟨q, hq⟩ := Option.ne_none_iff_exists'.1 (hclean.heldInPress a hsample')
      refine ⟨a, ?_, ha⟩
      by_contra hne
      have hqp : q ≠ p := fun heq => hne (heq ▸ hq)
      obtain ⟨b, hab, hbm, hb⟩ := hclean.separated a (m + 1) q p (by omega) hq hm hqp hsample' hsample
      have hphase : (e.state b).ph = .nTest := exec_phase (e.steps b) (by rw [hb]; rfl)
      rw [hsince b hab hbm.le] at hphase
      cases hphase

/-- Settles O53: `TM` has no writer but `N_TEST t=1` after power-on, and each physical press has exactly one such step. -/
theorem cleanPressTogglesExactlyOnce : Obligations.CleanPressTogglesExactlyOnce := by
  unfold Obligations.CleanPressTogglesExactlyOnce
  intro e press h0 hcycle hclean
  refine ⟨fun n hn => ⟨fun hne => ?_, fun hop => ?_⟩, fun p ⟨n, hn⟩ => ?_⟩
  · by_contra hop
    rw [exec_eq_effect (e.steps n)] at hne
    exact hne (effect_tm _ hop (hcycle n hn))
  · rw [exec_eq_effect (e.steps n), hop]
    simp [effect]
  · obtain ⟨a, hpa, ha⟩ := press_exists h0 hcycle hclean hn
    refine ⟨a, ⟨hpa, ha⟩, fun c ⟨hpc, hc⟩ => ?_⟩
    have hac := press_unique hcycle hclean hpa hpc ha hc
    have hca := press_unique hcycle hclean hpc hpa hc ha
    omega

/-! ### Strong fairness (70_reset_and_hazards.md R133, assumption log 9) -/

theorem pending_until_served {n : Nat} (htf : (e.state n).tf = true)
    (hunserved : ∀ m, n ≤ m → e.op m ≠ .tickSvc ∧ e.op m ≠ .reset) {m : Nat} (hm : n ≤ m) : (e.state m).tf = true := by
  induction m, hm using Nat.le_induction with
  | base => exact htf
  | succ m hm ih =>
    obtain ⟨hsvc, hreset⟩ := hunserved m hm
    rw [exec_eq_effect (e.steps m)]
    by_cases hreq : e.op m = .tickReq
    · rw [hreq]
      rfl
    · rw [effect_tf _ hreq hsvc hreset, ih]

/-- A main operation taken while the tick is masked is `SNAP_RD`, after which `SNAP_EI` comes, or `SNAP_EI`, which unmasks. -/
theorem masked_main_step (hinv : Inv s) (h : exec i s = .next t) (hmain : i.agent = .main) (hie : s.ie = false) :
    t.ph = .snapEi ∧ s.ph = .snapRd ∨ t.ie = true := by
  have hphase := (enabled_main_iff hmain).1 (exec_next_iff.1 h).2.1
  obtain rfl := exec_eq_effect h
  obtain hp | hp := hinv.maskWindow.1 hie
  · rw [hp] at hphase
    cases i with
    | snapRd => exact .inl ⟨rfl, hp⟩
    | _ => cases hphase
  · rw [hp] at hphase
    cases i with
    | snapEi => exact .inr rfl
    | _ => cases hphase

/-- The sequencer does not stay in the critical section: with main steps for ever the tick is unmasked again and again. -/
theorem unmasked_again (h0 : Inv (e.state 0)) (hmain : FMain e) {n : Nat} (hreset : ∀ m, n ≤ m → e.op m ≠ .reset) :
    ∃ m, n ≤ m ∧ (e.state m).ie = true := by
  by_contra hnone
  have hmasked : ∀ m, n ≤ m → (e.state m).ie = false := fun m hm =>
    Bool.eq_false_iff.2 fun hie => hnone ⟨m, hm, hie⟩
  have hread : ∀ m, n ≤ m → (e.op m).agent = .main → (e.state (m + 1)).ph = .snapEi ∧ (e.state m).ph = .snapRd := by
    intro m hm ha
    obtain h | h := masked_main_step (execution_inv h0 m) (e.steps m) ha (hmasked m hm)
    · exact h
    · exact absurd h (by simp [hmasked (m + 1) (by omega)])
  obtain ⟨m, hm, ha⟩ := hmain n
  have hstay : ∀ k, m + 1 ≤ k → (e.state k).ph = .snapEi := by
    intro k hk
    induction k, hk using Nat.le_induction with
    | base => exact (hread m hm ha).1
    | succ k hk ih =>
      by_cases hak : (e.op k).agent = .main
      · exact (hread k (by omega) hak).1
      · rw [exec_eq_effect (e.steps k), effect_ph _ hak (hreset k (by omega)), ih]
  obtain ⟨k, hk, hak⟩ := hmain (m + 1)
  have hphase := (hread k (by omega) hak).2
  rw [hstay k hk] at hphase
  cases hphase

/-- Settles O58: an unserved tick stays pending, so it is enabled whenever the tick is unmasked, again and again. -/
theorem strongFairnessServesEveryTick : Obligations.StrongFairnessServesEveryTick := by
  unfold Obligations.StrongFairnessServesEveryTick
  intro e h0 hmain hfair n htf
  by_contra hnone
  have hunserved : ∀ m, n ≤ m → e.op m ≠ .tickSvc ∧ e.op m ≠ .reset := fun m hm =>
    ⟨fun hop => hnone ⟨m, hm, .inl hop⟩, fun hop => hnone ⟨m, hm, .inr hop⟩⟩
  have henabled : ∀ k, n ≤ k → ∃ m, k ≤ m ∧ enabled .tickSvc (e.state m) = true := by
    intro k hk
    obtain ⟨m, hm, hie⟩ := unmasked_again h0 hmain (n := k) fun m hm => (hunserved m (by omega)).2
    have htfm : (e.state m).tf = true := pending_until_served htf hunserved (by omega)
    exact ⟨m, hm, by simp [htfm, hie]⟩
  obtain ⟨m, hm, hop⟩ := hfair n henabled
  exact (hunserved m hm).1 hop

/-! ### Weak fairness is not enough (assumption log 9): the sequencer alone, both buttons released -/

/-- The states when nothing but the main sequencer steps, with TEST and FF released. -/
def aloneState (s : State) : Nat → State
  | 0 => s
  | n + 1 => effect (mainOpAt false false (aloneState s n).ph) (aloneState s n)

theorem aloneState_cfg (s : State) (n : Nat) : (aloneState s n).cfg = s.cfg := by
  induction n with
  | zero => rfl
  | succ n ih => rw [aloneState, effect_cfg, ih]

/-- The execution in which nothing but the main sequencer steps: it always has a step (43_mode_sequencer.md R87). -/
def alone (s : State) (hc : s.cfg.admissible = true) : Execution where
  state := aloneState s
  op n := mainOpAt false false (aloneState s n).ph
  steps n := exec_of_phase (by rw [aloneState_cfg, hc]) (mainOpAt_phase false false _) rfl

theorem alone_agent (hc : s.cfg.admissible = true) (n : Nat) : ((alone s hc).op n).agent = .main :=
  agent_of_phase (mainOpAt_phase false false (aloneState s n).ph)

theorem mainOpAt_released_ne_press (p : Phase) : mainOpAt false false p ≠ .nTest true := by
  cases p <;> simp [mainOpAt]

theorem mainOpAt_ne_reset (test ff : Bool) (p : Phase) : mainOpAt test ff p ≠ .reset := by
  cases p <;> simp [mainOpAt]

theorem aloneState_tm (s : State) (n : Nat) : (aloneState s n).tm = s.tm := by
  induction n with
  | zero => rfl
  | succ n ih => rw [aloneState, effect_tm _ (mainOpAt_released_ne_press _) (mainOpAt_ne_reset _ _ _), ih]

/-- The number of steps from a phase to the next `SNAP_RD` with the buttons released and test mode off, at most. -/
def stepsToSnapRd : Phase → Nat
  | .snapRd => 0
  | .snapDi => 1
  | .nSel | .stSel => 2
  | .nTest | .nWait => 3
  | .nFf => 4
  | .stHead => 5
  | .drive => 6
  | .snapEi => 7

theorem stepsToSnapRd_lt (htm : s.tm = false) (hp : s.ph ≠ .snapRd) :
    stepsToSnapRd (effect (mainOpAt false false s.ph) s).ph < stepsToSnapRd s.ph := by
  cases h : s.ph with
  | snapRd => exact absurd h hp
  | nSel => simp [mainOpAt, effect, htm, stepsToSnapRd]
  | drive => cases hsel : selfTestSource s.sel <;> simp [mainOpAt, effect, hsel, stepsToSnapRd]
  | _ => simp [mainOpAt, effect, stepsToSnapRd]

/-- The sequencer alone reads the counter again and again, in the critical section. -/
theorem aloneState_snapRd_again (htm : s.tm = false) (n : Nat) : ∃ m, n ≤ m ∧ (aloneState s m).ph = .snapRd := by
  induction hk : stepsToSnapRd (aloneState s n).ph using Nat.strong_induction_on generalizing n with
  | _ k ih =>
    by_cases hp : (aloneState s n).ph = .snapRd
    · exact ⟨n, le_rfl, hp⟩
    · have hlt : stepsToSnapRd (aloneState s (n + 1)).ph < k :=
        hk ▸ stepsToSnapRd_lt ((aloneState_tm s n).trans htm) hp
      obtain ⟨m, hm, hread⟩ := ih _ hlt (n + 1) rfl
      exact ⟨m, by omega, hread⟩

/-- The tick is masked again and again, so weak fairness asks nothing of the tick unit. -/
theorem alone_fTick (hinv : Inv s) (htm : s.tm = false) : FTick (alone s hinv.admissible) := by
  intro n henabled
  obtain ⟨m, hm, hread⟩ := aloneState_snapRd_again htm n
  have hmasked : (aloneState s m).ie = false :=
    (execution_inv (e := alone s hinv.admissible) hinv m).maskWindow.2 (.inl hread)
  have hen : ((aloneState s m).tf && (aloneState s m).ie) = true := henabled m hm
  simp [hmasked] at hen

/-- Refutes O57: after reset with a tick pending the main sequencer runs for ever and no tick is ever served. -/
theorem not_weakFairnessServesEveryTick : ¬ Obligations.WeakFairnessServesEveryTick := by
  unfold Obligations.WeakFairnessServesEveryTick
  intro h
  have hinv : Inv (State.reset.setTf true) := inv_of_reset_values (by decide) rfl rfl rfl rfl rfl rfl
  have hmain : FMain (alone (State.reset.setTf true) hinv.admissible) := fun n => ⟨n, le_rfl, alone_agent _ n⟩
  obtain ⟨m, -, hop⟩ := h (alone (State.reset.setTf true) hinv.admissible) hinv hmain (alone_fTick hinv rfl) 0 rfl
  have hagent := alone_agent hinv.admissible m
  obtain hop | hop := hop
  all_goals
    rw [hop] at hagent
    cases hagent

end Sys2Proof.Machine
end
